-- ==== Sys2Proof/Word.lean ====
section
/-! DEFINITION. The two bit-vector types of the block: a queue element (rule R4) and a command word (rule R73). -/

namespace Sys2Proof

/-- A queue element, `bits[7:0]` (rule R4, DATA_W = 8). -/
abbrev Byte := BitVec 8

/-- The inputs `rst, cmd, enq_valid, enq_data` sampled at one clock edge (rule R73).
A notation for the sampled ports: the block has no 12-bit bus. -/
abbrev CommandWord := BitVec 12

end Sys2Proof
end

