-- ==== Sys2Proof/Syntax.lean ====
section
/-! DEFINITION. The commands and queries of the block: one constructor for each row of spec/opcode_table.json
(rule R81 for the eight commands, rules R120-R124 for the five queries), and the events an environment can
cause: a clock edge with a command word, or a reading of an output. -/

namespace Sys2Proof

/-- The rows of the opcode table. The first eight are command words (rule R81); the last five are outputs that
are read with no command word (rule R74). -/
inductive Instr where
  /-- `rst` = 1: the channel `init` (rule R170). -/
  | reset
  /-- `cmd` = 00, `enq_valid` = 0 (rule R141). -/
  | nop
  /-- `cmd` = 00, `enq_valid` = 1 (rule R100). -/
  | enq (b : Byte)
  /-- `cmd` = 01, `enq_valid` = 0 (rule R110). -/
  | deq
  /-- `cmd` = 01, `enq_valid` = 1 (rule R142). -/
  | enqdeq (b : Byte)
  /-- `cmd` = 10, `enq_valid` = 0 (rule R130). -/
  | flush
  /-- `cmd` = 10, `enq_valid` = 1 (rule R143). -/
  | flushenq (b : Byte)
  /-- `cmd` = 11; the operand is present exactly when `enq_valid` = 1 (rule R144). -/
  | rsvd (operand : Option Byte)
  /-- Reading `first_data` with its status (rule R120). -/
  | peekFirst
  /-- Reading `last_data` with its status (rule R121). -/
  | peekLast
  /-- Reading `count` (rule R122). -/
  | occupancy
  /-- Reading `empty` (rule R123). -/
  | empty
  /-- Reading `full` (rule R124). -/
  | full
deriving DecidableEq, Repr

/-- The name of an instruction's row in spec/opcode_table.json. -/
def Instr.mnemonic : Instr → String
  | .reset => "RESET"
  | .nop => "NOP"
  | .enq _ => "ENQ"
  | .deq => "DEQ"
  | .enqdeq _ => "ENQDEQ"
  | .flush => "FLUSH"
  | .flushenq _ => "FLUSHENQ"
  | .rsvd _ => "RSVD"
  | .peekFirst => "PEEK_FIRST"
  | .peekLast => "PEEK_LAST"
  | .occupancy => "OCCUPANCY"
  | .empty => "EMPTY"
  | .full => "FULL"

/-- The outputs that can be read in any cycle (rule R71). -/
inductive Query where
  | peekFirst | peekLast | occupancy | empty | full
deriving DecidableEq, Repr

/-- A query as a row of the opcode table. -/
def Query.instr : Query → Instr
  | .peekFirst => .peekFirst
  | .peekLast => .peekLast
  | .occupancy => .occupancy
  | .empty => .empty
  | .full => .full

/-- What the environment can do to the block (rules R70, R71 and R186): present a command word at a rising edge
of `clk`, or read an output between two edges. -/
inductive Stimulus where
  /-- A rising edge of `clk`, with the inputs sampled there. -/
  | edge (w : CommandWord)
  /-- A reading of an output in the current cycle; no clock edge (rule R56). -/
  | sample (q : Query)
deriving DecidableEq, Repr, Inhabited

end Sys2Proof
end

