-- ==== Sys2Proof/WellFormed.lean ====
section
/-! DEFINITION. Which instructions may be presented at a clock edge. -/

namespace Sys2Proof

/-- An instruction is well formed as a command when it has a command word (rules R74 and R81). The five queries
have none: their rows of the opcode table have a null match and mask. Operands need no check, since their types
already bound them (rule R75). -/
def Instr.wellFormed : Instr → Bool
  | .reset => true
  | .nop => true
  | .enq _ => true
  | .deq => true
  | .enqdeq _ => true
  | .flush => true
  | .flushenq _ => true
  | .rsvd _ => true
  | .peekFirst => false
  | .peekLast => false
  | .occupancy => false
  | .empty => false
  | .full => false

end Sys2Proof
end

