-- ==== Sys2Proof/Decode.lean ====
section
/-! DEFINITION. The decoder and the encoder of the 12-bit command word (30_encoding.md, rules R73-R76, R80-R82). -/

namespace Sys2Proof

/-! ### Fields of the command word (rule R73) -/

/-- `rst`, bit 11. -/
def wordRst (w : CommandWord) : Bool := w.getLsbD 11

/-- `cmd`, bits 10:9. -/
def wordCmd (w : CommandWord) : BitVec 2 := w.extractLsb' 9 2

/-- `enq_valid`, bit 8. -/
def wordEnqValid (w : CommandWord) : Bool := w.getLsbD 8

/-- `enq_data`, bits 7:0, taken unchanged (rule R75). -/
def wordEnqData (w : CommandWord) : Byte := w.extractLsb' 0 8

/-- The word `{rst, cmd, enq_valid, enq_data}` (rule R73). -/
def packWord (rst : Bool) (cmd : BitVec 2) (enqValid : Bool) (enqData : Byte) : CommandWord :=
  BitVec.ofBool rst ++ cmd ++ BitVec.ofBool enqValid ++ enqData

/-! ### The opcode map (rule R81) -/

/-- One row of the opcode table: the words `w` with `w AND mask = value`. -/
structure OpcodeRow where
  mnemonic : String
  mask : CommandWord
  value : CommandWord
deriving DecidableEq, Repr

/-- The eight command rows of rule R81, mask and match as that table gives them. -/
def opcodeRows : List OpcodeRow :=
  [⟨"RESET", 0x800, 0x800⟩, ⟨"NOP", 0xF00, 0x000⟩, ⟨"ENQ", 0xF00, 0x100⟩, ⟨"DEQ", 0xF00, 0x200⟩,
   ⟨"ENQDEQ", 0xF00, 0x300⟩, ⟨"FLUSH", 0xF00, 0x400⟩, ⟨"FLUSHENQ", 0xF00, 0x500⟩, ⟨"RSVD", 0xE00, 0x600⟩]

/-- Whether a word belongs to a row. -/
def OpcodeRow.covers (r : OpcodeRow) (w : CommandWord) : Bool := w &&& r.mask == r.value

/-! ### Decoding -/

/-- The decoder: `rst` first (rule R76), then `{cmd, enq_valid}` (rule R81). Every word decodes (rule R82).
`enq_data` is ignored where `enq_valid` = 0 (rule R75). -/
def decode (w : CommandWord) : Instr :=
  if wordRst w then .reset
  else
    match (wordCmd w).toNat, wordEnqValid w with
    | 0, false => .nop
    | 0, true => .enq (wordEnqData w)
    | 1, false => .deq
    | 1, true => .enqdeq (wordEnqData w)
    | 2, false => .flush
    | 2, true => .flushenq (wordEnqData w)
    | _, false => .rsvd none
    | _, true => .rsvd (some (wordEnqData w))

/-- Why a number is no command word. -/
inductive DecodeError where
  /-- It needs more than the 12 bits of the fixed format (rules R73 and R82). -/
  | widerThanTwelveBits
deriving DecidableEq, Repr

/-- The decoder on a number of any size: a number of more than 12 bits is rejected (log entry 13). -/
def decodeNumber (w : Nat) : Except DecodeError Instr :=
  if w < 4096 then .ok (decode (BitVec.ofNat 12 w)) else .error .widerThanTwelveBits

/-- The instruction the decoder reads from an opcode-table word. The block has one word of 12 bits, of which the
table numbers bit 0 as the least significant; bits at and above `nbits` are 0. -/
def decodeTableWord (nbits w : Nat) : Option Instr :=
  match decodeNumber (w % 2 ^ nbits) with
  | .ok i => some i
  | .error _ => none

/-! ### Encoding -/

/-- The canonical word of a well-formed instruction: ignored bits are 0 (rule R81). A query has no word
(rule R74). -/
def encode : Instr → Option CommandWord
  | .reset => some (packWord true 0 false 0)
  | .nop => some (packWord false 0 false 0)
  | .enq b => some (packWord false 0 true b)
  | .deq => some (packWord false 1 false 0)
  | .enqdeq b => some (packWord false 1 true b)
  | .flush => some (packWord false 2 false 0)
  | .flushenq b => some (packWord false 2 true b)
  | .rsvd none => some (packWord false 3 false 0)
  | .rsvd (some b) => some (packWord false 3 true b)
  | .peekFirst => none
  | .peekLast => none
  | .occupancy => none
  | .empty => none
  | .full => none

end Sys2Proof
end

