-- ==== Sys2Proof/Config.lean ====
section
/-! DEFINITION. What is fixed when a block is built (its configuration), and the values the spec leaves open
(opaque constants: nothing can evaluate them). -/

namespace Sys2Proof

/-- Whether the model refuses the edges the environment must never present (rules R177, R178 and R186).
DESIGN CHOICE (log entry 2). -/
inductive Contract where
  /-- The edge runs as the spec's "pseudocode of the hardware" says (rules R143 and R144). -/
  | hardware
  /-- The edge is refused, so that no claim can depend on it (93_implementation_defined.md I2 and I5). -/
  | enforced
deriving DecidableEq, Repr

/-- The parameters of one block. CAPACITY is at least 1 (rule R5); CAPACITY = 0 is rejected at elaboration, so no
configuration has it (rule R153, decision D14). -/
structure Config where
  /-- CAPACITY, the number of byte slots (rule R5). -/
  capacity : Nat
  /-- CAPACITY >= 1 (rules R5 and R153). -/
  capacity_pos : 1 ≤ capacity
  /-- How the model treats an edge that breaks the environment contract. -/
  contract : Contract
deriving DecidableEq, Repr

/-- The configuration of `State.reset`. The spec fixes no CAPACITY (N4, D14): 4 is one of its worked examples.
DESIGN CHOICE (log entries 1 and 2). Every meaning and every law is for all configurations. -/
def Config.atReset : Config where
  capacity := 4
  capacity_pos := by decide
  contract := .hardware

/-- The byte a consumer holds after a dequeue or a peek that reports `Empty`: any value
(93_implementation_defined.md I3 and I4, conflict C3). Free value (log entry 3). DESIGN CHOICE: it is a function of the
counter alone, so two blocks with equal counters hold the same byte (log entry 19). -/
opaque Config.emptyByte : Nat → Byte

/-- What the environment does once the stimuli placed in the state are used up: any value. Free value
(log entry 5). DESIGN CHOICE: it is a function of the counter alone, so two blocks with equal counters and no stimulus
placed meet the same environment (log entry 19). -/
opaque Config.environment : Nat → Stimulus

end Sys2Proof
end

