-- ==== Sys2Proof/Machine/State.lean ====
section
/-! DEFINITION. The state of one block as plain data, the reasons a step can stop, and the state after reset
(10_state.md, 60_exceptions.md, 70_reset_and_hazards.md). -/

namespace Sys2Proof.Machine

/-- The storage array as cells (slot, byte). -/
abbrev Memory := List Host.Cell

/-- What a slot with no cell reads as: the contents that RESET gives every slot (rule R37). -/
def Memory.unlisted : Byte := 0x00

/-- The canonical form: slots strictly rising, and no cell that says what an unlisted slot reads as. -/
abbrev Memory.wf (m : Memory) : Prop :=
  m.Pairwise (fun c d => c.1 < d.1) ∧ ∀ c ∈ m, c.2 ≠ Memory.unlisted

/-- The status of a dequeue or a peek (rule R77). -/
inductive Status where
  /-- "operation completed as requested" -/
  | ok
  /-- "queried/dequeued a queue with zero occupancy" -/
  | empty
deriving DecidableEq, Repr

/-- A result the consumer takes from the outputs. The consumer is outside the block (conflict C3): this is the
model's record of it (log entry 6). -/
inductive Reading where
  /-- The pair of a DEQ or of the DEQ half of an ENQDEQ (rules R110 and R142). -/
  | dequeued (byte : Byte) (status : Status)
  /-- The pair of peekFirst (rule R120). -/
  | first (byte : Byte) (status : Status)
  /-- The pair of peekLast (rule R121). -/
  | last (byte : Byte) (status : Status)
  /-- The unsigned number on `count` (rules R78 and R122). -/
  | occupancy (count : Nat)
  /-- The `empty` output (rule R123). -/
  | empty (flag : Bool)
  /-- The `full` output (rule R124). -/
  | full (flag : Bool)
deriving DecidableEq, Repr

/-- The state of one block, with what the model adds to run it. INVENTORY.md, '## State', gives each field's rule. -/
structure State where
  /-- CAPACITY and the contract mode, fixed when the block is built (rule R5). -/
  cfg : Config
  /-- `storage` (rule R20). -/
  storage : Memory
  /-- `front`, the index of the oldest occupied slot, or -1 (rule R21). -/
  front : Int
  /-- `end`, the index of the newest occupied slot, or -1 (rule R22). -/
  endCursor : Int
  /-- Whether an edge with `rst` = 1 has happened (rules R38 and R173). -/
  resetSeen : Bool
  /-- The stimuli the environment has placed, the next one first (rules R70 and R73). -/
  schedule : List Stimulus
  /-- How many free values have been drawn: the model's own. -/
  freeIndex : Nat
  /-- The last result the consumer took: the consumer's own (conflict C3). -/
  reading : Option Reading
deriving DecidableEq, Repr

/-- A step never ends in a fault: "The block has no exception, trap or fault mechanism" (rule R150). No
constructor, so nothing raises one. -/
inductive Fault where
deriving DecidableEq, Repr

/-- Why the model gives a step no next state. Each is safe: the model stops where the spec gives no effect, or
where it tells a model to refuse. -/
inductive Refusal where
  /-- Raised by `exec` for an instruction with no meaning yet. Safe. -/
  | notModelled (mnemonic : String)
  /-- Raised by every command but RESET, and by every query, before the first edge with `rst` = 1: it "has no
  specified effect" (rule R173, I6). Safe. -/
  | beforeFirstReset
  /-- Raised by every command but RESET, and by every query, in a state with cursors that no run from reset
  reaches: "the spec gives it no meaning" (rule R40, D25, I7). Safe. -/
  | unreachableCursors
  /-- Raised by FLUSHENQ under the enforced contract (rule R177, I2). Safe. -/
  | flushWithEnqueue
  /-- Raised by RSVD under the enforced contract (rule R178, I5). Safe. -/
  | reservedCommand
deriving DecidableEq, Repr

/-- `RESET_STATE` (rule R37) of a block of a given configuration, with no stimulus placed. -/
def State.resetOf (cfg : Config) : State where
  cfg := cfg
  storage := []
  front := -1
  endCursor := -1
  resetSeen := true
  schedule := []
  freeIndex := 0
  reading := none

/-- The machine right after reset (rule R37). -/
def State.reset : State := State.resetOf Config.atReset

end Sys2Proof.Machine
end

