-- ==== Sys2Proof/Machine/Ops.lean ====
section
/-! DEFINITION. The named operations over the storage and the cursors (10_state.md R26, 20_memory.md R50-R57), and
the check a command makes of the state it starts from. The block takes no exception (rules R150 and R156), so
there is no operation for one. -/

namespace Sys2Proof.Machine

/-! ### Storage -/

/-- The byte of slot `a`. -/
def Memory.read : Memory → Nat → Byte
  | [], _ => Memory.unlisted
  | c :: m, a => if c.1 = a then c.2 else Memory.read m a

/-- Slot `a` set to `b`, in canonical form: a slot set to what an unlisted slot reads as loses its cell. -/
def Memory.write : Memory → Nat → Byte → Memory
  | [], a, b => if b = Memory.unlisted then [] else [(a, b)]
  | c :: m, a, b =>
    if c.1 < a then c :: Memory.write m a b
    else
      let rest := if c.1 = a then m else c :: m
      if b = Memory.unlisted then rest else (a, b) :: rest

/-- `s.storage[i]` (rule R9). Every access moves one byte (rule R52). -/
def State.slot (s : State) (i : Int) : Byte := s.storage.read i.toNat

/-- `s'.storage[i] <- b` (rule R9). -/
def State.setSlot (s : State) (i : Int) (b : Byte) : State :=
  { s with storage := s.storage.write i.toNat b }

/-! ### Cursors -/

/-- CAPACITY as an integer, for the exact arithmetic of rule R8. -/
abbrev State.cap (s : State) : Int := s.cfg.capacity

/-- `adv(i)`, the circular advance of a cursor (rule R26). -/
def adv (capacity i : Int) : Int := if i = capacity - 1 then 0 else i + 1

/-- The cursor pairs a block can have: both -1, or both a slot (rules R21-R23, R40 and decision D25). -/
abbrev State.cursorsLegal (s : State) : Prop :=
  (s.front = -1 ∧ s.endCursor = -1) ∨
    ((0 ≤ s.front ∧ s.front < s.cap) ∧ (0 ≤ s.endCursor ∧ s.endCursor < s.cap))

/-- The states for which the spec gives every command but RESET its effect (rules R40 and R173). -/
abbrev State.Ready (s : State) : Prop := s.resetSeen = true ∧ s.cursorsLegal

/-! ### The checks a command makes -/

/-- What a command answers. -/
abbrev Result := Host.Outcome State Fault Refusal

/-- `k`, in a state for which the spec gives commands their effect; otherwise a refusal (rules R40 and R173,
I6 and I7). -/
def whenReady (s : State) (k : Result) : Result :=
  if s.resetSeen = true then
    if s.cursorsLegal then k else .refused .unreachableCursors
  else .refused .beforeFirstReset

/-- `k`, unless the model enforces the environment contract: then the refusal `r` (rules R177, R178 and R186). -/
def underContract (s : State) (r : Refusal) (k : Result) : Result :=
  match s.cfg.contract with
  | .hardware => k
  | .enforced => .refused r

end Sys2Proof.Machine
end

