-- ==== Sys2Proof/Machine/Flags.lean ====
section
/-! DEFINITION. The derived conditions, none of them stored (rule R35): occupancy, empty, full and contents
(10_state.md R27-R31), and the widths and codes of `count` and of the cursor registers (R6, R7, R78, R79). -/

namespace Sys2Proof.Machine

/-- `occ(s)`, the number of valid, unread bytes (rule R27). -/
def State.occ (s : State) : Int :=
  if s.front = -1 then 0
  else if s.front < s.endCursor then s.endCursor - s.front + 1
  else if s.endCursor < s.front then s.cap - s.front + s.endCursor + 1
  else 1

/-- `isEmpty(s)`, the `empty` output (rules R28 and R123). -/
def State.isEmpty (s : State) : Bool := s.front == -1

/-- `isFull(s)`, the `full` output (rules R29 and R124). -/
def State.isFull (s : State) : Bool :=
  (s.endCursor == s.cap - 1 && s.front == 0) || s.endCursor + 1 == s.front

/-- The status of a dequeue or a peek: 1 on `empty` is `Empty`, 0 is `Ok` (rule R77). -/
def State.status (s : State) : Status := if s.isEmpty then .empty else .ok

/-- `contents(s)`, the occupied bytes, oldest first (rule R31). -/
def State.contents (s : State) : List Byte :=
  (List.range s.occ.toNat).map fun k => s.slot ((s.front + k) % s.cap)

/-- `clog2(n)`, the least `k` with `2^k >= n` (rule R7). -/
def clog2 (n : Nat) : Nat := if n ≤ 1 then 0 else (n - 1).log2 + 1

/-- CNT_W, the width of `count` (rule R6). -/
def countWidth (cfg : Config) : Nat := clog2 (cfg.capacity + 1)

/-- CW, the width of the reference encoding of a cursor register (rule R6). -/
def cursorWidth (cfg : Config) : Nat := clog2 cfg.capacity + 1

/-- The `count` output: `occ` as an unsigned binary number of CNT_W bits (rules R78 and R122). -/
def State.count (s : State) : BitVec (countWidth s.cfg) := BitVec.ofNat _ s.occ.toNat

/-- The reference encoding of a cursor: CW-bit two's complement (rule R79). -/
def cursorCode (cfg : Config) (i : Int) : BitVec (cursorWidth cfg) := BitVec.ofInt _ i

/-- The cursor that a reference code stands for (rule R79). -/
def cursorOfCode (cfg : Config) (c : BitVec (cursorWidth cfg)) : Int := c.toInt

end Sys2Proof.Machine
end

