-- ==== Sys2Proof/Machine/Operands.lean ====
section
/-! DEFINITION. The operand forms: the data outputs, which read the storage cursor-indirect (rules R51, R120 and
R121), and how the consumer takes a byte with its status (rules R110 and R176). -/

namespace Sys2Proof.Machine

/-- The `first_data` output: slot `front`, and 0x00 when empty (rule R120). -/
def State.firstData (s : State) : Byte := if s.isEmpty then 0x00 else s.slot s.front

/-- The `last_data` output: slot `end`, and 0x00 when empty (rule R121). -/
def State.lastData (s : State) : Byte := if s.isEmpty then 0x00 else s.slot s.endCursor

/-- All the outputs of one cycle (rule R71): functions of the state alone. -/
structure Outputs where
  firstData : Byte
  lastData : Byte
  empty : Bool
  full : Bool
  /-- The unsigned number that the CNT_W bits of `count` carry (rule R78). -/
  count : Nat
deriving DecidableEq, Repr

/-- The outputs in the cycle whose state is `s` (rules R71 and R140). -/
def State.outputs (s : State) : Outputs where
  firstData := s.firstData
  lastData := s.lastData
  empty := s.isEmpty
  full := s.isFull
  count := s.count.toNat

/-- The consumer takes a result; the block's state does not change (rule R56). -/
def State.take (s : State) (r : Reading) : State := { s with reading := some r }

/-- The consumer takes the pair (byte, status) from a data output that shows `port`. With status `Empty` the byte
is a free value (I3, I4 and conflict C3; log entry 3). DESIGN CHOICE: it is drawn anew each time a byte is taken, so two
peeks of an empty queue in one cycle may hold different bytes (log entry 20); it is a function of the counter alone
(log entry 19). -/
def State.takeByte (s : State) (form : Byte → Status → Reading) (port : Byte) : State :=
  if s.isEmpty then
    { s with reading := some (form (Config.emptyByte s.freeIndex) .empty), freeIndex := s.freeIndex + 1 }
  else s.take (form port .ok)

end Sys2Proof.Machine
end

