-- ==== Sys2Proof/Machine/Queue.lean ====
section
/-! DEFINITION. The four operations of the queue as functions from a state to a next state (rule R10): `ENQ`, `DEQ`,
`FLUSH` and `RESET`. The meanings of the commands are written over them. -/

namespace Sys2Proof.Machine

/-- `ENQ(s, b)` (rule R100): a full queue drops its oldest byte, then `end` advances and its slot takes `b`. -/
def enqueue (b : Byte) (s : State) : State :=
  let f := if s.isFull then adv s.cap s.front else s.front
  let e := adv s.cap s.endCursor
  { s.setSlot e b with endCursor := e, front := if s.front = -1 then 0 else f }

/-- The next state of `DEQ(s)` (rule R110). The storage is never written. -/
def dequeue (s : State) : State :=
  if s.isEmpty then s
  else if s.front = s.endCursor then { s with front := -1, endCursor := -1 }
  else { s with front := adv s.cap s.front }

/-- `FLUSH(s)` (rule R130). The storage is not written. -/
def flushQueue (s : State) : State := { s with front := -1, endCursor := -1 }

/-- `RESET` (rule R170): `RESET_STATE` whatever the state before. What is not the block's (the environment's
stimuli, the consumer's last result, the number of free values drawn) stays (log entry 14). -/
def resetBlock (s : State) : State :=
  { s with storage := [], front := -1, endCursor := -1, resetSeen := true }

/-- The consumer takes a DEQ's result from the outputs before the edge, and the edge removes the byte
(rules R110 and R176). -/
def takeDequeue (s : State) : State := dequeue (s.takeByte .dequeued s.firstData)

end Sys2Proof.Machine
end

