-- ==== Sys2Proof/Machine/Cycle.lean ====
section
/-! DEFINITION. NOP, the combined commands, the reserved command and RESET (44_cycle.md, 70_reset_and_hazards.md),
and the step function of rule R140 over the sampled ports, in the spec's own words. -/

namespace Sys2Proof.Machine

/-- NOP (rule R141). -/
def execNop (s : State) : Result := whenReady s (.next s)

/-- ENQDEQ (rule R142): the consumer's DEQ first, then ENQ on its result. -/
def execEnqdeq (b : Byte) (s : State) : Result := whenReady s (.next (enqueue b (takeDequeue s)))

/-- FLUSHENQ (rules R143 and R177): the pseudocode of the hardware, refused under the enforced contract. -/
def execFlushenq (b : Byte) (s : State) : Result :=
  whenReady s (underContract s .flushWithEnqueue (.next (enqueue b (flushQueue s))))

/-- RSVD (rules R144 and R178): the consumer part is a no-op and the producer's ENQ runs as usual; refused under
the enforced contract. -/
def execRsvd (operand : Option Byte) (s : State) : Result :=
  whenReady s (underContract s .reservedCommand
    (.next (match operand with
      | none => s
      | some b => enqueue b s)))

/-- RESET (rule R170): in any state, also before the first reset. -/
def execReset (s : State) : Result := .next (resetBlock s)

/-- `step(s, w)` of rule R140, on the block's own state: `rst` alone, or the consumer's `cmd` and then the
producer's ENQ (rules R59 and R155). The decoder and the meanings are the machine; this is the rule they are
compared with. -/
def portStep (w : CommandWord) (s : State) : State :=
  if wordRst w then resetBlock s
  else
    let s1 :=
      match (wordCmd w).toNat with
      | 1 => dequeue s
      | 2 => flushQueue s
      | _ => s
    if wordEnqValid w then enqueue (wordEnqData w) s1 else s1

end Sys2Proof.Machine
end

