-- ==== Sys2Proof/Machine/Dequeue.lean ====
section
/-! DEFINITION. The consumer's dequeue (41_dequeue.md). -/

namespace Sys2Proof.Machine

/-- DEQ (rule R110). -/
def execDeq (s : State) : Result := whenReady s (.next (takeDequeue s))

end Sys2Proof.Machine
end

