-- ==== Sys2Proof/Machine/Enqueue.lean ====
section
/-! DEFINITION. The producer's command (40_enqueue.md). -/

namespace Sys2Proof.Machine

/-- ENQ (rule R100). -/
def execEnq (b : Byte) (s : State) : Result := whenReady s (.next (enqueue b s))

end Sys2Proof.Machine
end

