-- ==== Sys2Proof/Machine/Flush.lean ====
section
/-! DEFINITION. The consumer's flush (43_flush.md). -/

namespace Sys2Proof.Machine

/-- FLUSH (rule R130). -/
def execFlush (s : State) : Result := whenReady s (.next (flushQueue s))

end Sys2Proof.Machine
end

