-- ==== Sys2Proof/Machine/Queries.lean ====
section
/-! DEFINITION. The five queries (42_queries.md): the consumer reads an output; the block does not change. -/

namespace Sys2Proof.Machine

/-- PEEK_FIRST (rule R120). -/
def execPeekFirst (s : State) : Result := whenReady s (.next (s.takeByte .first s.firstData))

/-- PEEK_LAST (rule R121). -/
def execPeekLast (s : State) : Result := whenReady s (.next (s.takeByte .last s.lastData))

/-- OCCUPANCY (rule R122): the number on the `count` output. -/
def execOccupancy (s : State) : Result := whenReady s (.next (s.take (.occupancy s.count.toNat)))

/-- EMPTY (rule R123). -/
def execEmpty (s : State) : Result := whenReady s (.next (s.take (.empty s.isEmpty)))

/-- FULL (rule R124). -/
def execFull (s : State) : Result := whenReady s (.next (s.take (.full s.isFull)))

end Sys2Proof.Machine
end

