-- ==== Sys2Proof/Machine/Dispatch.lean ====
section
/-! DEFINITION. One arm per row of spec/opcode_table.json. -/

namespace Sys2Proof.Machine

def exec (i : Instr) (s : State) : Host.Outcome State Fault Refusal :=
  match i with
  | .reset => Sys2Proof.Machine.execReset s
  | .nop => Sys2Proof.Machine.execNop s
  | .enq b => Sys2Proof.Machine.execEnq b s
  | .deq => Sys2Proof.Machine.execDeq s
  | .enqdeq b => Sys2Proof.Machine.execEnqdeq b s
  | .flush => Sys2Proof.Machine.execFlush s
  | .flushenq b => Sys2Proof.Machine.execFlushenq b s
  | .rsvd operand => Sys2Proof.Machine.execRsvd operand s
  | .peekFirst => Sys2Proof.Machine.execPeekFirst s
  | .peekLast => Sys2Proof.Machine.execPeekLast s
  | .occupancy => Sys2Proof.Machine.execOccupancy s
  | .empty => Sys2Proof.Machine.execEmpty s
  | .full => Sys2Proof.Machine.execFull s

end Sys2Proof.Machine
end

