-- ==== Sys2Proof/Machine/Fetch.lean ====
section
/-! DEFINITION. Where the next instruction comes from. The block fetches nothing (rule R33): the environment presents a
command word at each edge, and reads outputs between edges (log entry 5). -/

namespace Sys2Proof.Machine

/-- The next stimulus, and the state without it. When none is placed, the environment does anything: a free
value. DESIGN CHOICE: it is a function of the counter alone (log entry 19). -/
def State.nextStimulus (s : State) : Stimulus × State :=
  match s.schedule with
  | e :: rest => (e, { s with schedule := rest })
  | [] => (Config.environment s.freeIndex, { s with freeIndex := s.freeIndex + 1 })

/-- The instruction that a stimulus makes the block run. -/
def Stimulus.instr : Stimulus → Instr
  | .edge w => decode w
  | .sample q => q.instr

/-- The word of an opcode-table row placed on the input ports at the next edge, in place of the stimulus that
stood there. A number that is no command word cannot be placed (log entry 13). -/
def State.placeWord (s : State) (nbits w : Nat) : State :=
  if w % 2 ^ nbits < 4096 then
    { s with schedule := .edge (BitVec.ofNat 12 (w % 2 ^ nbits)) :: s.schedule.drop 1 }
  else s

end Sys2Proof.Machine
end

