-- ==== Sys2Proof/Machine/Step.lean ====
section
/-! DEFINITION. One step: the next stimulus of the environment, run (rule R140). -/

namespace Sys2Proof.Machine

/-- One step of the machine: a clock edge with its command word, or a reading of an output. -/
def step (s : State) : Host.Outcome State Fault Refusal :=
  exec (Stimulus.instr s.nextStimulus.1) s.nextStimulus.2

/-- `s` with a word of the opcode table on the input ports at the next edge. -/
def State.withFetchWord (s : State) (nbits w : Nat) : State := s.placeWord nbits w

end Sys2Proof.Machine
end

