-- ==== Sys2Proof/Machine/Instances.lean ====
section
/-! DEFINITION. Several blocks in one system (rule R158): each has its own state, and they share nothing. -/

namespace Sys2Proof.Machine

/-- One step of block `k` of a system. A system without a block `k` does not change. DESIGN CHOICE: blocks with equal
counters draw the same free values, though they share no state (log entry 19). -/
def stepInstance (k : Nat) (system : List State) : Host.Outcome (List State) Fault Refusal :=
  match system[k]? with
  | none => .next system
  | some s =>
    match step s with
    | .next t => .next (system.set k t)
    | .fault r => .fault r
    | .refused r => .refused r

end Sys2Proof.Machine
end

