-- ==== Sys2Proof/Machine/Sequences.lean ====
section
/-! DEFINITION. The pseudo-sequences of the environment (rule R84): patterns of command words that the producer and the
consumer drive. The block does not implement them. -/

namespace Sys2Proof.Machine

/-- One edge's word: the consumer's `cmd`, and the producer's byte if one has arrived (rules R70 and R73). -/
def portWord (cmd : BitVec 2) (arrival : Option Byte) : CommandWord :=
  packWord false cmd arrival.isSome (arrival.getD 0)

/-- `ENQS b1 ... bn`: one ENQ on each of n consecutive edges, with `cmd` = 00. -/
def enqs (bs : List Byte) : List Stimulus := bs.map fun b => .edge (portWord 0 (some b))

/-- `WAITDEQ`: NOP edges while `empty` = 1, then one DEQ edge; the byte is `first_data` in that last cycle. The list
says what the producer presents at each edge. Answers the byte, the arrivals left and the state after; nothing
when the arrivals end while the consumer still waits (rule R184). -/
def waitDeq : List (Option Byte) → State → Option (Byte × List (Option Byte) × State)
  | [], _ => none
  | a :: rest, s =>
    if s.isEmpty then waitDeq rest (portStep (portWord 0 a) s)
    else some (s.firstData, rest, portStep (portWord 1 a) s)

/-- `READN n`: n consecutive WAITDEQ. Answers the bytes in the order received. -/
def readN : Nat → List (Option Byte) → State → Option (List Byte × List (Option Byte) × State)
  | 0, arrivals, s => some ([], arrivals, s)
  | n + 1, arrivals, s =>
    match waitDeq arrivals s with
    | none => none
    | some (b, rest, t) =>
      match readN n rest t with
      | none => none
      | some (bs, left, u) => some (b :: bs, left, u)

/-- `DRAIN`: DEQ edges until `empty` = 1 in the cycle before an edge, with no producer. At most `fuel` edges. -/
def drain : Nat → State → List Byte × State
  | 0, s => ([], s)
  | fuel + 1, s =>
    if s.isEmpty then ([], s)
    else
      let r := drain fuel (portStep (portWord 1 none) s)
      (s.firstData :: r.1, r.2)

/-- A sequence of instructions in which every DEQ returns `Ok`: the state after it, or nothing when a DEQ finds the
queue empty or an instruction has no next state (rule R111, second paragraph). -/
def execOkDequeues : List Instr → State → Option State
  | [], s => some s
  | i :: rest, s =>
    if i = .deq ∧ s.isEmpty = true then none
    else
      match exec i s with
      | .next t => execOkDequeues rest t
      | .fault _ => none
      | .refused _ => none

end Sys2Proof.Machine
end

