-- ==== Sys2Proof/Machine/Trace.lean ====
section
/-! DEFINITION. The trace syntax (rule R83): one line per clock edge, a mnemonic and, for ENQ, ENQDEQ and FLUSHENQ, a byte
`0xHH`; `;` starts a comment. Lines are lists of characters. -/

namespace Sys2Proof.Machine

/-- A hexadecimal digit. -/
def hexDigit (n : Nat) : Char :=
  ['0', '1', '2', '3', '4', '5', '6', '7', '8', '9', 'A', 'B', 'C', 'D', 'E', 'F'].getD n '0'

/-- The value of a hexadecimal digit, in either case of its letter. -/
def hexValue (c : Char) : Option Nat :=
  match ['0', '1', '2', '3', '4', '5', '6', '7', '8', '9', 'A', 'B', 'C', 'D', 'E', 'F'].idxOf? c with
  | some n => some n
  | none =>
    match ['a', 'b', 'c', 'd', 'e', 'f'].idxOf? c with
    | some n => some (n + 10)
    | none => none

/-- A byte as the two digits after `0x`. -/
def hexByte (b : Byte) : List Char := [hexDigit (b.toNat / 16), hexDigit (b.toNat % 16)]

/-- The line of a command. RSVD has no operand in this syntax, so an RSVD that enqueues has no line; neither has a
query, which is no command. -/
def traceLine : Instr → Option (List Char)
  | .reset => some ['R', 'E', 'S', 'E', 'T']
  | .nop => some ['N', 'O', 'P']
  | .enq b => some (['E', 'N', 'Q', ' ', '0', 'x'] ++ hexByte b)
  | .deq => some ['D', 'E', 'Q']
  | .enqdeq b => some (['E', 'N', 'Q', 'D', 'E', 'Q', ' ', '0', 'x'] ++ hexByte b)
  | .flush => some ['F', 'L', 'U', 'S', 'H']
  | .flushenq b => some (['F', 'L', 'U', 'S', 'H', 'E', 'N', 'Q', ' ', '0', 'x'] ++ hexByte b)
  | .rsvd none => some ['R', 'S', 'V', 'D']
  | .rsvd (some _) => none
  | .peekFirst => none
  | .peekLast => none
  | .occupancy => none
  | .empty => none
  | .full => none

/-- A byte operand `0xHH`. -/
def readHexByte : List Char → Option Byte
  | ['0', 'x', h, l] =>
    match hexValue h, hexValue l with
    | some a, some b => some (BitVec.ofNat 8 (16 * a + b))
    | _, _ => none
  | _ => none

/-- A line without its comment and the blanks at its end. -/
def stripComment (line : List Char) : List Char :=
  ((line.takeWhile (· != ';')).reverse.dropWhile (· == ' ')).reverse

/-- The command of a line; nothing when the line is not in the syntax. -/
def readLine (line : List Char) : Option Instr :=
  let text := stripComment line
  let name := text.takeWhile (· != ' ')
  let operand := (text.dropWhile (· != ' ')).dropWhile (· == ' ')
  match name, operand with
  | ['R', 'E', 'S', 'E', 'T'], [] => some .reset
  | ['N', 'O', 'P'], [] => some .nop
  | ['D', 'E', 'Q'], [] => some .deq
  | ['F', 'L', 'U', 'S', 'H'], [] => some .flush
  | ['R', 'S', 'V', 'D'], [] => some (.rsvd none)
  | ['E', 'N', 'Q'], cs => (readHexByte cs).map .enq
  | ['E', 'N', 'Q', 'D', 'E', 'Q'], cs => (readHexByte cs).map .enqdeq
  | ['F', 'L', 'U', 'S', 'H', 'E', 'N', 'Q'], cs => (readHexByte cs).map .flushenq
  | _, _ => none

/-- The 12-bit word of a line (rule R83: "the canonical 12-bit word of rule R81"). -/
def assembleLine (line : List Char) : Option CommandWord := (readLine line).bind encode

end Sys2Proof.Machine
end

