-- ==== Sys2Proof/Machine/Contents.lean ====
section
/-! DEFINITION. The laws of the step on the contents alone (rules R101, R111, R131 and R145): the queue as a list of at
most CAPACITY bytes (rule R41). -/

namespace Sys2Proof.Machine

/-- The contents after an ENQ (rule R101): the oldest byte goes when the queue is full. -/
def pushBounded (capacity : Nat) (c : List Byte) (b : Byte) : List Byte :=
  (if c.length = capacity then c.tail else c) ++ [b]

/-- `c'` of rule R145: the contents after an instruction, from the contents before. A query writes nothing
(rule R56). -/
def nextContents (capacity : Nat) (i : Instr) (c : List Byte) : List Byte :=
  match i with
  | .reset => []
  | .nop => c
  | .enq b => pushBounded capacity c b
  | .deq => c.tail
  | .enqdeq b => c.tail ++ [b]
  | .flush => []
  | .flushenq b => [b]
  | .rsvd none => c
  | .rsvd (some b) => pushBounded capacity c b
  | .peekFirst => c
  | .peekLast => c
  | .occupancy => c
  | .empty => c
  | .full => c

end Sys2Proof.Machine
end

