-- ==== Sys2Proof/Safety.lean ====
section
/-! DEFINITION. The terms the claims use: the invariant of every run, what two states of one block have in common, and the
environment contract (rules R23, R36, R39-R41, R186). -/

namespace Sys2Proof.Machine

/-- What holds of every state of a run: the storage is in canonical form and inside its address space (rule R50), and
after the first reset the cursors are a pair that the block can have (rules R23 and R40). -/
abbrev State.Inv (s : State) : Prop :=
  s.storage.wf ∧ (∀ c ∈ s.storage, c.1 < s.cfg.capacity) ∧ (s.resetSeen = true → s.cursorsLegal)

/-- Two states agree on all that is the block's: configuration, storage and cursors (rules R20-R22). -/
abbrev State.SameBlock (s t : State) : Prop :=
  t.cfg = s.cfg ∧ t.storage = s.storage ∧ t.front = s.front ∧ t.endCursor = s.endCursor ∧
    t.resetSeen = s.resetSeen

/-- Two states agree on what is outside the block: the environment's stimuli, the consumer's last result, and the
number of free values drawn. -/
abbrev State.SameOutside (s t : State) : Prop :=
  t.schedule = s.schedule ∧ t.reading = s.reading ∧ t.freeIndex = s.freeIndex

/-- Slot `i` is in the circular span from `front` to `end` (rule R24). -/
abbrev State.occupied (s : State) (i : Nat) : Prop :=
  i < s.cfg.capacity ∧ s.front ≠ -1 ∧
    if s.front ≤ s.endCursor then s.front ≤ i ∧ i ≤ s.endCursor else s.front ≤ i ∨ i ≤ s.endCursor

/-- The word keeps the "must never" entries of the environment contract (rules R177, R178 and R186): no flush with an
enqueue, no `cmd` = 11, at an edge with `rst` = 0. -/
abbrev keepsContract (w : CommandWord) : Prop :=
  wordRst w = true ∨ (wordCmd w ≠ 3#2 ∧ ¬ (wordCmd w = 2#2 ∧ wordEnqValid w = true))

/-- `k` steps of the machine the host reads. -/
abbrev run (k : Nat) (s : State) : Result := Host.Core.run Sys2Proof.core k s

end Sys2Proof.Machine
end

