-- ==== Sys2Proof/Certificates/Slice0/Obligations.lean ====
section
/-! DEFINITION. The statements for the provers, from the numbered rules of spec/. `State.Ready` says that the first reset has
happened and that the cursors are a pair the block can have; `State.Inv` is the invariant of every run. -/

open Sys2Proof Sys2Proof.Machine

/-! ### Encoding -/

/-- Words written out from the table of rule R81 decode to their commands (vectors L2-G). -/
def Obligations.SpecWordsDecode : Prop :=
  decode 0x000 = .nop ∧ decode 0x0FF = .nop ∧ decode 0x141 = .enq 0x41 ∧ decode 0x200 = .deq ∧
  decode 0x2FF = .deq ∧ decode 0x3A3 = .enqdeq 0xA3 ∧ decode 0x400 = .flush ∧
  decode 0x577 = .flushenq 0x77 ∧ decode 0x600 = .rsvd none ∧ decode 0x7FF = .rsvd (some 0xFF) ∧
  decode 0x800 = .reset ∧ decode 0xFFF = .reset

/-- Decoding the word of any well-formed instruction gives the instruction back, whatever its operand. -/
def Obligations.DecodeEncodeRoundTrip : Prop :=
  ∀ i : Instr, i.wellFormed = true → ∃ w, encode i = some w ∧ decode w = i

/-- Rule R81: every word belongs to exactly one row of the opcode map, and it is the row of the command it
decodes to. -/
def Obligations.EveryWordMatchesExactlyOneRow : Prop :=
  ∀ w : CommandWord, (opcodeRows.filter (·.covers w)).map OpcodeRow.mnemonic = [(decode w).mnemonic]

/-- Encoding what a word decodes to gives the word with the bits that the decoder drops at 0 and every other bit as it
was. Outside RSVD these are the ignored bits and the canonical spelling of rule R81. For RSVD the model keeps `enq_valid`
and, with it, `enq_data`, which the row of rule R81 marks x and rule R144 reads: log entry 9 (DEDUCED). -/
def Obligations.EncodeDecodeGivesCanonicalWord : Prop :=
  ∀ w : CommandWord, encode (decode w) =
    some (if wordRst w = true then 0x800 else if wordEnqValid w = true then w else w &&& 0xF00)

/-- With `rst` = 1 the other inputs are ignored and the edge performs RESET alone (rule R76). That RESET also leaves what
is outside the block is log entry 14 (DEDUCED). -/
def Obligations.ResetIgnoresEveryOtherInput : Prop :=
  ∀ (w w' : CommandWord) (s : State), wordRst w = true → wordRst w' = true →
    ∃ t, exec (decode w) s = .next t ∧ exec (decode w') s = .next t ∧
      t.front = -1 ∧ t.endCursor = -1 ∧ (∀ a, t.storage.read a = 0x00) ∧ t.cfg = s.cfg ∧ s.SameOutside t

/-- Rule R75: `enq_data` has no effect with `enq_valid` = 0; with `enq_valid` = 1 it is the operand of the command, and
the byte stored, unchanged. -/
def Obligations.EnqDataIsReadOnlyWhenValid : Prop :=
  (∀ (w w' : CommandWord) (s : State), wordRst w = wordRst w' → wordCmd w = wordCmd w' →
      wordEnqValid w = false → wordEnqValid w' = false → exec (decode w) s = exec (decode w') s) ∧
  (∀ w : CommandWord, wordRst w = false → wordEnqValid w = true →
      decode w = .enq (wordEnqData w) ∨ decode w = .enqdeq (wordEnqData w) ∨
      decode w = .flushenq (wordEnqData w) ∨ decode w = .rsvd (some (wordEnqData w))) ∧
  ∀ (w : CommandWord) (s : State), s.Inv → s.Ready → wordRst w = false → wordEnqValid w = true →
    keepsContract w →
    ∃ t, exec (decode w) s = .next t ∧ t.storage.read t.endCursor.toNat = wordEnqData w

/-! ### The step -/

/-- A step runs the instruction of the next stimulus, and drops that stimulus: the command a word decodes to at a clock
edge, the query at a reading. With none placed it runs a free one (the model's choice, log entry 5). -/
def Obligations.StepRunsDecodedInstruction : Prop :=
  (∀ (s : State) (w : CommandWord) (rest : List Stimulus) (i : Instr), s.schedule = .edge w :: rest →
      decode w = i → i.wellFormed = true → step s = exec i { s with schedule := rest }) ∧
  (∀ (s : State) (q : Query) (rest : List Stimulus), s.schedule = .sample q :: rest →
      step s = exec q.instr { s with schedule := rest }) ∧
  ∀ s : State, s.schedule = [] →
      step s = exec (Stimulus.instr (Config.environment s.freeIndex)) { s with freeIndex := s.freeIndex + 1 }

/-- Rules R140, R59 and R155: at every edge the decoded command does to the block what `rst` alone, or `cmd` and then
the enqueue, does: the consumer first, the producer second. -/
def Obligations.CommandsFollowPortPriority : Prop :=
  ∀ (w : CommandWord) (s : State), s.Ready → s.cfg.contract = .hardware →
    ∃ t, exec (decode w) s = .next t ∧ (portStep w s).SameBlock t ∧ t.schedule = s.schedule

/-! ### RESET, NOP and FLUSH -/

/-- RESET in any state, also before the first reset, gives the reset values, and so does the state right after reset of
every configuration (rules R37 and R170). That RESET leaves what is outside the block is log entry 14 (DEDUCED). -/
def Obligations.ResetGivesResetValues : Prop :=
  (∀ s : State, ∃ t, exec .reset s = .next t ∧ t.front = -1 ∧ t.endCursor = -1 ∧
      (∀ a, t.storage.read a = 0x00) ∧ t.storage.wf ∧ t.resetSeen = true ∧ t.cfg = s.cfg ∧
      s.SameOutside t ∧ t.occ = 0 ∧ t.isEmpty = true ∧ t.isFull = false) ∧
  ∀ cfg : Config, (State.resetOf cfg).cfg = cfg ∧ (State.resetOf cfg).front = -1 ∧
    (State.resetOf cfg).endCursor = -1 ∧ (∀ a, (State.resetOf cfg).storage.read a = 0x00) ∧
    (State.resetOf cfg).occ = 0 ∧ (State.resetOf cfg).isEmpty = true ∧ (State.resetOf cfg).isFull = false

/-- Rule R141: NOP leaves the state, and so every output, unchanged. -/
def Obligations.NopHoldsState : Prop :=
  ∀ s : State, s.Ready → exec .nop s = .next s

/-- Rule R130: FLUSH sends both cursors to -1 and writes no slot; then `empty` = 1, `full` = 0, `count` = 0. -/
def Obligations.FlushEmptiesAndKeepsStorage : Prop :=
  ∀ s : State, s.Ready → ∃ t, exec .flush s = .next t ∧ t.front = -1 ∧ t.endCursor = -1 ∧
    (∀ a, t.storage.read a = s.storage.read a) ∧ t.cfg = s.cfg ∧ t.resetSeen = s.resetSeen ∧
    s.SameOutside t ∧ t.isEmpty = true ∧ t.isFull = false ∧ t.count.toNat = 0

/-- Rule R131: `contents(FLUSH(s)) = []` for every s, and the FLUSH command leaves those contents. -/
def Obligations.FlushContentsAreEmpty : Prop :=
  (∀ s : State, (flushQueue s).contents = []) ∧
  ∀ s : State, s.Ready → ∃ t, exec .flush s = .next t ∧ t.contents = []

/-! ### ENQ -/

/-- Rule R100: the cursors and every slot after an ENQ, and what it leaves unchanged. The byte goes to slot
`adv(end)`; a full queue also drops its oldest byte. -/
def Obligations.EnqWritesSlotAndMovesCursors : Prop :=
  ∀ (s : State) (b : Byte), s.Inv → s.Ready → ∃ t, exec (.enq b) s = .next t ∧
    (s.front = -1 → t.front = 0 ∧ t.endCursor = 0) ∧
    (s.front ≠ -1 → t.endCursor = (s.endCursor + 1) % s.cap) ∧
    (s.front ≠ -1 → s.occ < s.cap → t.front = s.front) ∧
    (s.front ≠ -1 → s.occ = s.cap → t.front = (s.front + 1) % s.cap) ∧
    t.endCursor = adv s.cap s.endCursor ∧
    (∀ a, t.storage.read a = if a = (adv s.cap s.endCursor).toNat then b else s.storage.read a) ∧
    t.isEmpty = false ∧ t.cfg = s.cfg ∧ t.resetSeen = s.resetSeen ∧ s.SameOutside t

/-- Rule R101: ENQ on the contents and on the occupancy. It evicts exactly when the queue is full, and then the
oldest byte. -/
def Obligations.EnqAppendsAndEvictsOldest : Prop :=
  ∀ (s : State) (b : Byte), s.Inv → s.Ready → ∃ t, exec (.enq b) s = .next t ∧
    t.contents = (if s.occ = s.cap then s.contents.tail else s.contents) ++ [b] ∧
    t.occ = min (s.occ + 1) s.cap

/-- Rules R102 and R152: an ENQ that evicts leaves the same contents and the same outputs as the ENQ of the same byte
into a queue that never held the evicted byte: nothing reports the eviction. -/
def Obligations.EvictionLeavesNoTrace : Prop :=
  ∀ (s s' : State) (x b : Byte), s.Inv → s.Ready → s'.Inv → s'.Ready → s'.cfg = s.cfg →
    s.occ = s.cap → s.contents = x :: s'.contents →
    ∃ t t', exec (.enq b) s = .next t ∧ exec (.enq b) s' = .next t' ∧
      t.contents = t'.contents ∧ t.outputs = t'.outputs

/-! ### DEQ and ENQDEQ -/

/-- Rule R110: the consumer's result, the cursors after a DEQ, and what it leaves unchanged. The byte that comes with
`Empty` is any value (I3). -/
def Obligations.DeqReturnsOldestAndMovesFront : Prop :=
  ∀ s : State, s.Ready → ∃ t, exec .deq s = .next t ∧
    (s.front = -1 → (∃ x, t.reading = some (.dequeued x .empty)) ∧ t.front = -1 ∧
      t.endCursor = s.endCursor) ∧
    (s.front ≠ -1 → t.reading = some (.dequeued (s.storage.read s.front.toNat) .ok) ∧
      t.freeIndex = s.freeIndex) ∧
    (s.front ≠ -1 → s.front = s.endCursor → t.front = -1 ∧ t.endCursor = -1) ∧
    (s.front ≠ -1 → s.front ≠ s.endCursor →
      t.front = (s.front + 1) % s.cap ∧ t.endCursor = s.endCursor) ∧
    (∀ a, t.storage.read a = s.storage.read a) ∧ t.cfg = s.cfg ∧ t.resetSeen = s.resetSeen ∧
    t.schedule = s.schedule

/-- Rule R111: DEQ on the contents: the head with `Ok`, or the status `Empty` and no change; the occupancy goes down by
one, and not below 0. -/
def Obligations.DeqRemovesHeadOfContents : Prop :=
  ∀ s : State, s.Inv → s.Ready → ∃ t, exec .deq s = .next t ∧
    (s.contents = [] → (∃ x, t.reading = some (.dequeued x .empty)) ∧ t.contents = []) ∧
    (∀ x rest, s.contents = x :: rest →
      t.reading = some (.dequeued x .ok) ∧ t.contents = rest) ∧
    t.occ = max (s.occ - 1) 0

/-- Rule R142: DEQ on the state before, then ENQ on its result: the consumer's result does not see the new byte, the
byte goes to slot `adv(end)` of the dequeued state, and nothing is evicted. -/
def Obligations.EnqdeqDequeuesThenEnqueues : Prop :=
  ∀ (s : State) (b : Byte), s.Inv → s.Ready → ∃ t, exec (.enqdeq b) s = .next t ∧
    (s.front = -1 → (∃ x, t.reading = some (.dequeued x .empty)) ∧ t.front = 0 ∧ t.endCursor = 0) ∧
    (s.front ≠ -1 → t.reading = some (.dequeued (s.storage.read s.front.toNat) .ok) ∧
      t.freeIndex = s.freeIndex) ∧
    (s.front ≠ -1 → s.front = s.endCursor → t.front = 0 ∧ t.endCursor = 0) ∧
    (s.front ≠ -1 → s.front ≠ s.endCursor →
      t.front = (s.front + 1) % s.cap ∧ t.endCursor = (s.endCursor + 1) % s.cap) ∧
    (∀ a, t.storage.read a =
      if a = (adv s.cap (dequeue s).endCursor).toNat then b else s.storage.read a) ∧
    t.contents = s.contents.tail ++ [b] ∧ t.cfg = s.cfg ∧ t.resetSeen = s.resetSeen ∧
    t.schedule = s.schedule

/-- Rule R121, corner case 2: after any command that enqueues b, `last_data` = b and `empty` = 0. FLUSHENQ and RSVD
are run as the pseudocode of the hardware says, the model's choice of log entry 2. -/
def Obligations.LastDataIsTheEnqueuedByte : Prop :=
  ∀ (s : State) (i : Instr) (b : Byte), s.Inv → s.Ready → s.cfg.contract = .hardware →
    i = .enq b ∨ i = .enqdeq b ∨ i = .flushenq b ∨ i = .rsvd (some b) →
    ∃ t, exec i s = .next t ∧ t.lastData = b ∧ t.isEmpty = false

/-! ### FLUSHENQ, RSVD and the environment contract -/

/-- Rule R143, "pseudocode of the hardware": contents `[b]`, the byte in slot 0, every other slot unchanged, for every
state before. That the model runs it is log entry 2. -/
def Obligations.FlushenqLeavesOneByte : Prop :=
  ∀ (s : State) (b : Byte), s.Inv → s.Ready → s.cfg.contract = .hardware →
    ∃ t, exec (.flushenq b) s = .next t ∧ t.front = 0 ∧ t.endCursor = 0 ∧
      (∀ a, t.storage.read a =
        if a = (adv s.cap (flushQueue s).endCursor).toNat then b else s.storage.read a) ∧
      t.storage.read 0 = b ∧ t.contents = [b] ∧ t.cfg = s.cfg ∧ t.resetSeen = s.resetSeen ∧ s.SameOutside t

/-- Rule R144, "pseudocode of the hardware": with `enq_valid` = 0 RSVD holds the state, and with `enq_valid` = 1 it
does what ENQ does. That the model runs it is log entry 2. -/
def Obligations.RsvdIsNopOrEnq : Prop :=
  ∀ s : State, s.Ready → s.cfg.contract = .hardware →
    exec (.rsvd none) s = .next s ∧
    ∀ b, ∃ t, exec (.rsvd (some b)) s = .next t ∧ exec (.enq b) s = .next t

/-- Rules R177, R178 and R186, in the model's enforced mode (log entry 2): an edge answers a next state exactly when it
keeps the environment contract, and the two edges that break it are refused by name. -/
def Obligations.EnforcedContractRefusesItsBreaches : Prop :=
  ∀ (s : State), s.Ready → s.cfg.contract = .enforced →
    (∀ w : CommandWord, (∃ t, exec (decode w) s = .next t) ↔ keepsContract w) ∧
    (∀ b, exec (.flushenq b) s = .refused .flushWithEnqueue) ∧
    ∀ operand, exec (.rsvd operand) s = .refused .reservedCommand

/-! ### Queries -/

/-- Rules R120 and R121: the oldest and the newest byte with `Ok`, the status `Empty` of an empty queue (the byte is then
any value, I4), and the ends of the contents. -/
def Obligations.PeeksReturnEndsOfContents : Prop :=
  ∀ s : State, s.Ready →
    (∃ t, exec .peekFirst s = .next t ∧ s.SameBlock t ∧ t.schedule = s.schedule ∧
      (s.front = -1 → ∃ x, t.reading = some (.first x .empty)) ∧
      (s.front ≠ -1 → t.freeIndex = s.freeIndex ∧
        t.reading = some (.first (s.storage.read s.front.toNat) .ok) ∧
        s.contents.head? = some (s.storage.read s.front.toNat))) ∧
    ∃ t, exec .peekLast s = .next t ∧ s.SameBlock t ∧ t.schedule = s.schedule ∧
      (s.front = -1 → ∃ x, t.reading = some (.last x .empty)) ∧
      (s.front ≠ -1 → t.freeIndex = s.freeIndex ∧
        t.reading = some (.last (s.storage.read s.endCursor.toNat) .ok) ∧
        s.contents.getLast? = some (s.storage.read s.endCursor.toNat))

/-- Rule R122: the number read is the occupancy of the cursors, and the length of the contents. -/
def Obligations.OccupancyReadsNumberOfBytes : Prop :=
  ∀ s : State, s.Ready → ∃ t n, exec .occupancy s = .next t ∧ t.reading = some (.occupancy n) ∧
    (n : Int) = s.occ ∧ n = s.contents.length ∧ n ≤ s.cfg.capacity ∧
    s.SameBlock t ∧ t.schedule = s.schedule ∧ t.freeIndex = s.freeIndex

/-- Rules R123 and R124: `empty` is 1 exactly when the queue holds nothing, `full` exactly when it holds CAPACITY
bytes; reading them changes nothing in the block. -/
def Obligations.EmptyAndFullReadTheirConditions : Prop :=
  ∀ s : State, s.Ready →
    (∃ t e, exec .empty s = .next t ∧ t.reading = some (.empty e) ∧
      (e = true ↔ s.front = -1) ∧ (e = true ↔ s.endCursor = -1) ∧ (e = true ↔ s.contents = []) ∧
      s.SameBlock t ∧ t.schedule = s.schedule ∧ t.freeIndex = s.freeIndex) ∧
    ∃ t f, exec .full s = .next t ∧ t.reading = some (.full f) ∧
      (f = true ↔ s.contents.length = s.cfg.capacity) ∧
      s.SameBlock t ∧ t.schedule = s.schedule ∧ t.freeIndex = s.freeIndex

/-- Rule R56: reading an output any number of times changes no part of the block and no output. -/
def Obligations.ReadingOutputsHasNoSideEffect : Prop :=
  ∀ (qs : List Query) (s : State), s.Ready → s.schedule = qs.map .sample →
    ∃ t, run qs.length s = .next t ∧ s.SameBlock t ∧ t.outputs = s.outputs ∧ t.schedule = []

/-! ### The derived conditions -/

/-- Rule R26: the circular advance, its value at the sentinel, and its form as a remainder. -/
def Obligations.AdvanceIsCircular : Prop :=
  ∀ n : Int, 1 ≤ n →
    (∀ i, -1 ≤ i → i < n → adv n i = if i = n - 1 then 0 else i + 1) ∧ adv n (-1) = 0 ∧
    (∀ i, 0 ≤ i → i < n → adv n i = (i + 1) % n) ∧ adv 1 0 = 0

/-- Rule R27: the four cases of the occupancy, its form as a remainder, and its range. -/
def Obligations.OccupancyCasesAndRange : Prop :=
  ∀ s : State, s.cursorsLegal →
    (s.front = -1 → s.occ = 0) ∧
    (s.front ≠ -1 → s.front < s.endCursor → s.occ = s.endCursor - s.front + 1) ∧
    (s.front ≠ -1 → s.endCursor < s.front → s.occ = s.cap - s.front + s.endCursor + 1) ∧
    (s.front ≠ -1 → s.front = s.endCursor → s.occ = 1) ∧
    (s.front ≠ -1 → s.occ = (s.endCursor - s.front) % s.cap + 1 ∧ 1 ≤ s.occ ∧ s.occ ≤ s.cap)

/-- Rules R25 and R30: the occupancy is in [0, CAPACITY], and the queue is full exactly when it is CAPACITY. -/
def Obligations.FullExactlyAtCapacity : Prop :=
  ∀ s : State, s.cursorsLegal →
    0 ≤ s.occ ∧ s.occ ≤ s.cap ∧ (s.isFull = true ↔ s.occ = s.cap)

/-- Rule R23: the sentinel of one cursor, of the other, and occupancy 0 go together. -/
def Obligations.SentinelsAndZeroOccupancyAgree : Prop :=
  ∀ s : State, s.cursorsLegal →
    (s.front = -1 ↔ s.endCursor = -1) ∧ (s.front = -1 ↔ s.occ = 0) ∧ (s.isEmpty = true ↔ s.occ = 0)

/-- Rules R24 and R31: the contents are the bytes of the occupied span, one for each place of it, from the slot of
`front` to the slot of `end`. -/
def Obligations.ContentsAreTheOccupiedSpan : Prop :=
  ∀ s : State, s.cursorsLegal →
    (s.contents.length : Int) = s.occ ∧
    (∀ k : Nat, (k : Int) < s.occ →
      s.contents[k]? = some (s.storage.read ((s.front + k) % s.cap).toNat)) ∧
    (∀ i : Nat, s.occupied i ↔ ∃ k : Nat, (k : Int) < s.occ ∧ (i : Int) = (s.front + k) % s.cap) ∧
    (s.front ≠ -1 → s.contents.head? = some (s.storage.read s.front.toNat) ∧
      s.contents.getLast? = some (s.storage.read s.endCursor.toNat))

/-- Rule R7: `clog2(n)` is the least k with 2^k >= n. -/
def Obligations.CeilingLogIsLeast : Prop :=
  (∀ n : Nat, 1 ≤ n → n ≤ 2 ^ clog2 n ∧ ∀ k, n ≤ 2 ^ k → clog2 n ≤ k) ∧
  clog2 1 = 0 ∧ clog2 4 = 2 ∧ clog2 5 = 3 ∧ clog2 129 = 8

/-- Rule R78: the CNT_W bits of `count` carry the occupancy, every value up to CAPACITY fits, and no code above
CAPACITY is driven. -/
def Obligations.CountCarriesTheOccupancy : Prop :=
  (∀ (cfg : Config) (n : Nat), n ≤ cfg.capacity → (BitVec.ofNat (countWidth cfg) n).toNat = n) ∧
  ∀ s : State, s.cursorsLegal → (s.count.toNat : Int) = s.occ ∧ s.count.toNat ≤ s.cfg.capacity

/-- Rule R79: the reference code of a cursor determines it, -1 is the all-ones code, and a slot is its own unsigned
code. -/
def Obligations.CursorCodesDetermineCursors : Prop :=
  ∀ cfg : Config,
    (∀ i : Int, -1 ≤ i → i < cfg.capacity → cursorOfCode cfg (cursorCode cfg i) = i) ∧
    cursorCode cfg (-1) = BitVec.allOnes _ ∧
    ∀ i : Int, 0 ≤ i → i < cfg.capacity → ((cursorCode cfg i).toNat : Int) = i

/-! ### Invariants and reachability -/

/-- The state right after reset meets the invariant, for every configuration. -/
def Obligations.ResetStateMeetsInvariant : Prop :=
  (∀ cfg : Config, (State.resetOf cfg).Inv ∧ (State.resetOf cfg).Ready) ∧
  State.reset.Inv ∧ State.reset.Ready

/-- Rules R23, R40 and R50: every step keeps the storage canonical and inside its address space and the cursors a pair
the block can have; a state after a step is ready, and the configuration never changes. -/
def Obligations.EveryStepKeepsInvariant : Prop :=
  ∀ s t : State, s.Inv → step s = .next t → t.Inv ∧ t.Ready ∧ t.cfg = s.cfg

/-- In a state that is not ready every instruction but RESET is refused, by the reason that holds; RESET runs. That the
model refuses there is its choice among the spec's treatments (rules R38, R40 and R173, I6 and I7; log entries 7 and 8). -/
def Obligations.OnlyResetRunsInUnreadyStates : Prop :=
  ∀ (s : State) (i : Instr),
    (s.resetSeen = false → i ≠ .reset → exec i s = .refused .beforeFirstReset) ∧
    (s.resetSeen = true → ¬ s.cursorsLegal → i ≠ .reset → exec i s = .refused .unreachableCursors) ∧
    (¬ s.Ready → ∃ t, exec .reset s = .next t ∧ t.Ready)

/-- Rule R40, second half: every non-empty pair of cursors is reached from reset, with every content of the occupied span,
by edges that keep the environment contract. -/
def Obligations.EveryLegalQueueIsReachable : Prop :=
  ∀ (cfg : Config) (f e : Int) (c : List Byte), 0 ≤ f → f < cfg.capacity → 0 ≤ e → e < cfg.capacity →
    (c.length : Int) = (e - f) % cfg.capacity + 1 →
    ∃ (ws : List CommandWord) (t : State), (∀ w ∈ ws, keepsContract w) ∧
      run ws.length { State.resetOf cfg with schedule := ws.map .edge } = .next t ∧
      t.front = f ∧ t.endCursor = e ∧ t.contents = c

/-- Rule R36: which instructions but RESET, which writes every field, write which field. A slot changes only by an enqueue,
and then only the slot of the new `end`; `front` and `end` change only by an enqueue, DEQ or FLUSH; a DEQ moves `end` only
when it empties the queue. So NOP, RSVD without an enqueue and the queries write none of them. -/
def Obligations.OnlyTheNamedWritersWrite : Prop :=
  ∀ (i : Instr) (s t : State), s.Inv → exec i s = .next t → i ≠ .reset →
    (∀ a, t.storage.read a ≠ s.storage.read a →
      a = t.endCursor.toNat ∧ ∃ b, i = .enq b ∨ i = .enqdeq b ∨ i = .flushenq b ∨ i = .rsvd (some b)) ∧
    (t.front ≠ s.front → i = .deq ∨ i = .flush ∨
      ∃ b, i = .enq b ∨ i = .enqdeq b ∨ i = .flushenq b ∨ i = .rsvd (some b)) ∧
    (t.endCursor ≠ s.endCursor → i = .deq ∨ i = .flush ∨
      ∃ b, i = .enq b ∨ i = .enqdeq b ∨ i = .flushenq b ∨ i = .rsvd (some b)) ∧
    (i = .deq → t.endCursor ≠ s.endCursor → t.front = -1 ∧ t.endCursor = -1) ∧
    (∀ b, i = .enq b → t.front ≠ s.front → s.front = -1 ∨ s.occ = s.cap) ∧
    t.cfg = s.cfg ∧ t.resetSeen = s.resetSeen

/-! ### The queue as a list -/

/-- Rule R145: every instruction answers a next state, whose contents follow the law on the contents alone, and the
result of a dequeue is the head of the contents before. -/
def Obligations.ContentsFollowTheListQueue : Prop :=
  ∀ (i : Instr) (s : State), s.Inv → s.Ready → s.cfg.contract = .hardware →
    ∃ t, exec i s = .next t ∧ t.contents = nextContents s.cfg.capacity i s.contents ∧
      (i = .deq ∨ (∃ b, i = .enqdeq b) →
        (s.contents = [] → ∃ x, t.reading = some (.dequeued x .empty)) ∧
        ∀ x rest, s.contents = x :: rest → t.reading = some (.dequeued x .ok))

/-- Rule R41: two states of one configuration with the same contents cannot be told apart by any instruction: the consumer
takes the same results, and the contents and outputs stay alike. The bytes shown by an empty queue are left out (I4). The
two have equal counters, so they draw the same free values (log entry 19). FLUSHENQ and RSVD run: log entry 2. -/
def Obligations.OnlyContentsCanBeObserved : Prop :=
  ∀ (i : Instr) (s s' : State), s.Inv → s.Ready → s'.Inv → s'.Ready → s.cfg.contract = .hardware →
    s'.cfg = s.cfg → s'.contents = s.contents → s'.freeIndex = s.freeIndex → s'.reading = s.reading →
    ∃ t t', exec i s = .next t ∧ exec i s' = .next t' ∧
      t'.contents = t.contents ∧ t'.freeIndex = t.freeIndex ∧ t'.reading = t.reading ∧
      t'.isEmpty = t.isEmpty ∧ t'.isFull = t.isFull ∧ t'.count.toNat = t.count.toNat ∧
      (t.isEmpty = false → t'.firstData = t.firstData ∧ t'.lastData = t.lastData)

/-- The overflow property (rules R58 and R101, with the precondition of conflict C5): any number of enqueues from reset,
with nothing between them, leaves the last CAPACITY bytes in order. -/
def Obligations.EnqueuesKeepTheLastCapacityBytes : Prop :=
  ∀ (cfg : Config) (bs : List Byte),
    ∃ t, run bs.length { State.resetOf cfg with schedule := enqs bs } = .next t ∧
      t.contents = bs.drop (bs.length - cfg.capacity) ∧ t.schedule = []

/-- The occupancy property (rule R111, conflict C6): from the state after reset, m <= CAPACITY enqueues and d dequeues
that all return `Ok`, in any order, leave m - d bytes. -/
def Obligations.OccupancyIsEnqueuesLessDequeues : Prop :=
  ∀ (cfg : Config) (is : List Instr) (t : State),
    (∀ i ∈ is, i = .deq ∨ ∃ b, i = .enq b) →
    is.length - is.count .deq ≤ cfg.capacity →
    execOkDequeues is (State.resetOf cfg) = some t →
    t.occ = (is.length : Int) - 2 * (is.count .deq : Int)

/-- DRAIN (rule R84) returns the contents in order and empties the queue (rule R58). -/
def Obligations.DrainReturnsContentsInOrder : Prop :=
  ∀ s : State, s.Inv → s.Ready →
    (drain s.cfg.capacity s).1 = s.contents ∧ (drain s.cfg.capacity s).2.isEmpty = true ∧
    (drain s.cfg.capacity s).2.storage = s.storage

/-- READN (rule R84) with enough bytes present and no arrivals takes one edge a byte, and returns the oldest bytes in
order. -/
def Obligations.ReadNReturnsOldestBytes : Prop :=
  ∀ (s : State) (n : Nat), s.Inv → s.Ready → n ≤ s.contents.length →
    ∃ t, readN n (List.replicate n none) s = some (s.contents.take n, [], t) ∧
      t.contents = s.contents.drop n

/-- READN (rule R84) loses no byte, whatever the producer presents meanwhile: the bytes returned and the bytes left are
those that were there and those that arrived, in order (rules R53 and R142). -/
def Obligations.ReadNLosesNothing : Prop :=
  ∀ (n : Nat) (arrivals left : List (Option Byte)) (s t : State) (bs : List Byte), s.Inv → s.Ready →
    readN n arrivals s = some (bs, left, t) →
    bs.length = n ∧ ∃ used, arrivals = used ++ left ∧
      bs ++ t.contents = s.contents ++ used.filterMap id

/-! ### Instances and trace lines -/

/-- Rule R158: a step of one block of a system is that block's own step, and changes no other block. -/
def Obligations.InstancesShareNothing : Prop :=
  ∀ (k : Nat) (system : List State) (s t : State), system[k]? = some s → step s = .next t →
    ∃ system', stepInstance k system = .next system' ∧ system'.length = system.length ∧
      system'[k]? = some t ∧ ∀ j, j ≠ k → system'[j]? = system[j]?

/-- The trace line of a command reads back as the command and assembles to its word (rule R83). That it reads back with a
blank before a comment is log entry 18 (DEDUCED: the blanks of a line); that RSVD's line is the one without an enqueue is
rule R83's own. -/
def Obligations.TraceLinesReadBack : Prop :=
  ∀ (i : Instr) (line comment : List Char), traceLine i = some line →
    readLine line = some i ∧ readLine (line ++ [' ', ';'] ++ comment) = some i ∧
    assembleLine line = encode i
end

