-- ==== Sys2Proof/Laws/Decode.lean ====
section
/-! SUPPORT. The fields of a packed word are the fields that were packed (rule R73). -/

namespace Sys2Proof

variable (rst : Bool) (cmd : BitVec 2) (valid : Bool) (data : Byte)

/-- Bit `i` of a packed word: `enq_data` lies lowest, then `enq_valid`, `cmd` and `rst`. -/
theorem packWord_getLsbD (i : Nat) :
    (packWord rst cmd valid data).getLsbD i =
      if i < 8 then data.getLsbD i
      else if i < 9 then (BitVec.ofBool valid).getLsbD (i - 8)
      else if i < 11 then cmd.getLsbD (i - 9)
      else (BitVec.ofBool rst).getLsbD (i - 11) := by
  change BitVec.getLsbD (w := 1 + 2 + 1 + 8) (BitVec.ofBool rst ++ cmd ++ BitVec.ofBool valid ++ data) i = _
  rw [BitVec.getLsbD_append, BitVec.getLsbD_append, BitVec.getLsbD_append]
  split_ifs <;> first | rfl | omega

@[simp] theorem wordRst_packWord : wordRst (packWord rst cmd valid data) = rst := by
  rw [wordRst, packWord_getLsbD]; cases rst <;> rfl

@[simp] theorem wordEnqValid_packWord : wordEnqValid (packWord rst cmd valid data) = valid := by
  rw [wordEnqValid, packWord_getLsbD]; cases valid <;> rfl

@[simp] theorem wordCmd_packWord : wordCmd (packWord rst cmd valid data) = cmd := by
  apply BitVec.eq_of_getLsbD_eq
  intro i hi
  rw [wordCmd, BitVec.getLsbD_extractLsb', packWord_getLsbD, if_neg (by omega), if_neg (by omega),
    if_pos (by omega), show 9 + i - 9 = i by omega]
  simp [hi]

@[simp] theorem wordEnqData_packWord : wordEnqData (packWord rst cmd valid data) = data := by
  apply BitVec.eq_of_getLsbD_eq
  intro i hi
  rw [wordEnqData, BitVec.getLsbD_extractLsb', packWord_getLsbD, if_pos (by omega), Nat.zero_add]
  simp [hi]

/-- The decoder answers only commands, and every word decodes (rules R81 and R82). -/
theorem decode_wellFormed (w : CommandWord) : (decode w).wellFormed = true := by
  unfold decode
  split_ifs
  · rfl
  · split <;> rfl

end Sys2Proof
end

