-- ==== Sys2Proof/Laws/Memory.lean ====
section
/-! SUPPORT. The storage: reading after writing, the canonical form kept by every operation, and equal storages as equal
data. -/

namespace Sys2Proof.Machine

@[simp] theorem Memory.read_nil (a : Nat) : Memory.read [] a = Memory.unlisted := rfl

theorem Memory.read_cons (c : Host.Cell) (m : Memory) (a : Nat) :
    Memory.read (c :: m) a = if c.1 = a then c.2 else Memory.read m a := rfl

theorem Memory.wf_cons {c : Host.Cell} {m : Memory} :
    Memory.wf (c :: m) ↔ (∀ d ∈ m, c.1 < d.1) ∧ c.2 ≠ Memory.unlisted ∧ Memory.wf m := by
  simp only [Memory.wf, List.pairwise_cons, List.mem_cons, forall_eq_or_imp]
  tauto

theorem Memory.wf_nil : Memory.wf [] := by decide

/-- A slot below every cell reads as an unlisted one. -/
theorem Memory.read_below {m : Memory} {a : Nat} (h : ∀ d ∈ m, a < d.1) :
    Memory.read m a = Memory.unlisted := by
  induction m with
  | nil => rfl
  | cons c m ih =>
    have hc := h c (by simp)
    rw [Memory.read_cons, if_neg (by omega)]
    exact ih fun d hd => h d (by simp [hd])

/-- Where the cells of a written storage come from. -/
theorem Memory.mem_write {m : Memory} {a : Nat} {b : Byte} {d : Host.Cell}
    (h : d ∈ Memory.write m a b) : d ∈ m ∨ (d = (a, b) ∧ b ≠ Memory.unlisted) := by
  induction m with
  | nil =>
    unfold Memory.write at h
    split_ifs at h with hb
    · simp at h
    · exact .inr ⟨by simpa using h, hb⟩
  | cons c m ih =>
    unfold Memory.write at h
    dsimp only at h
    split_ifs at h with h1 hb h2 h3
    · rcases List.mem_cons.1 h with rfl | h
      · exact .inl (by simp)
      · exact (ih h).imp (fun h => by simp [h]) id
    · exact .inl (by simp [h])
    · exact .inl (by simp_all)
    · rcases List.mem_cons.1 h with rfl | h
      · exact .inr ⟨rfl, hb⟩
      · exact .inl (by simp_all)
    · rcases List.mem_cons.1 h with rfl | h
      · exact .inr ⟨rfl, hb⟩
      · exact .inl (by simp_all)

/-- A write keeps the canonical form. -/
theorem Memory.write_wf {m : Memory} (hm : Memory.wf m) (a : Nat) (b : Byte) :
    Memory.wf (Memory.write m a b) := by
  induction m with
  | nil =>
    unfold Memory.write
    split_ifs with hb
    · exact Memory.wf_nil
    · exact Memory.wf_cons.2 ⟨by simp, hb, Memory.wf_nil⟩
  | cons c m ih =>
    obtain ⟨hlt, hc, hm'⟩ := Memory.wf_cons.1 hm
    unfold Memory.write
    dsimp only
    split_ifs with h1 hb h2 h3
    · refine Memory.wf_cons.2 ⟨fun d hd => ?_, hc, ih hm'⟩
      rcases Memory.mem_write hd with hd | ⟨rfl, -⟩
      · exact hlt d hd
      · exact h1
    · exact hm'
    · exact hm
    · exact Memory.wf_cons.2 ⟨fun d hd => by have := hlt d hd; dsimp only; omega, hb, hm'⟩
    · refine Memory.wf_cons.2 ⟨fun d hd => ?_, hb, hm⟩
      rcases List.mem_cons.1 hd with rfl | hd
      · dsimp only; omega
      · have := hlt d hd; dsimp only; omega

/-- Reading the slot that was written gives the byte written. -/
theorem Memory.read_write_same {m : Memory} (hm : Memory.wf m) (a : Nat) (b : Byte) :
    Memory.read (Memory.write m a b) a = b := by
  induction m with
  | nil => unfold Memory.write; split_ifs with hb <;> simp [Memory.read_cons, hb]
  | cons c m ih =>
    obtain ⟨hlt, -, hm'⟩ := Memory.wf_cons.1 hm
    unfold Memory.write
    dsimp only
    split_ifs with h1 hb h2 h3
    · rw [Memory.read_cons, if_neg (by omega)]; exact ih hm'
    · rw [Memory.read_below fun d hd => by have := hlt d hd; omega, hb]
    · rw [Memory.read_cons, if_neg (by omega),
        Memory.read_below fun d hd => by have := hlt d hd; omega, hb]
    · rw [Memory.read_cons, if_pos rfl]
    · rw [Memory.read_cons, if_pos rfl]

/-- A write leaves every other slot alone. -/
theorem Memory.read_write_other (m : Memory) {a a' : Nat} (b : Byte) (h : a' ≠ a) :
    Memory.read (Memory.write m a b) a' = Memory.read m a' := by
  induction m with
  | nil =>
    unfold Memory.write; split_ifs with hb
    · rfl
    · rw [Memory.read_cons, if_neg (fun e => h e.symm)]
  | cons c m ih =>
    unfold Memory.write
    dsimp only
    split_ifs with h1 hb h2 h3
    · simp only [Memory.read_cons, ih]
    · rw [Memory.read_cons, if_neg (by omega)]
    · rfl
    · simp only [Memory.read_cons, if_neg (fun e : a = a' => h e.symm),
        if_neg (fun e : c.1 = a' => h (by omega))]
    · rw [Memory.read_cons, if_neg (fun e => h e.symm)]

/-- Both cases of a read after a write. -/
theorem Memory.read_write {m : Memory} (hm : Memory.wf m) (a a' : Nat) (b : Byte) :
    Memory.read (Memory.write m a b) a' = if a' = a then b else Memory.read m a' := by
  split_ifs with h
  · rw [h, Memory.read_write_same hm]
  · exact Memory.read_write_other m b h

/-- A write inside an address space keeps the cells inside it. -/
theorem Memory.write_inRange {m : Memory} {n a : Nat} (hm : ∀ c ∈ m, c.1 < n) (ha : a < n) (b : Byte) :
    ∀ c ∈ Memory.write m a b, c.1 < n := by
  intro c hc
  rcases Memory.mem_write hc with hc | ⟨rfl, -⟩
  · exact hm c hc
  · exact ha

/-- Storages in canonical form that read alike are the same data. -/
theorem Memory.ext_of_wf {m m' : Memory} (hm : Memory.wf m) (hm' : Memory.wf m')
    (h : ∀ a, Memory.read m a = Memory.read m' a) : m = m' := by
  induction m generalizing m' with
  | nil =>
    cases m' with
    | nil => rfl
    | cons d m' =>
      have := h d.1
      rw [Memory.read_cons, if_pos rfl] at this
      exact absurd this.symm (Memory.wf_cons.1 hm').2.1
  | cons c m ih =>
    obtain ⟨hlt, hc, hwf⟩ := Memory.wf_cons.1 hm
    cases m' with
    | nil =>
      have := h c.1
      rw [Memory.read_cons, if_pos rfl] at this
      exact absurd this hc
    | cons d m' =>
      obtain ⟨hlt', hd, hwf'⟩ := Memory.wf_cons.1 hm'
      have key : c.1 = d.1 := by
        rcases Nat.lt_trichotomy c.1 d.1 with hcd | hcd | hcd
        · have := h c.1
          rw [Memory.read_cons, if_pos rfl, Memory.read_cons, if_neg (by omega),
            Memory.read_below fun e he => by have := hlt' e he; omega] at this
          exact absurd this hc
        · exact hcd
        · have := h d.1
          rw [Memory.read_cons, if_neg (by omega),
            Memory.read_below fun e he => by have := hlt e he; omega, Memory.read_cons,
            if_pos rfl] at this
          exact absurd this.symm hd
      have hval : c.2 = d.2 := by
        have := h c.1
        rwa [Memory.read_cons, if_pos rfl, Memory.read_cons, if_pos key.symm] at this
      have htail : m = m' := by
        refine ih hwf hwf' fun a => ?_
        by_cases ha : c.1 = a
        · rw [Memory.read_below fun e he => by have := hlt e he; omega,
            Memory.read_below fun e he => by have := hlt' e he; omega]
        · have := h a
          rwa [Memory.read_cons, if_neg ha, Memory.read_cons, if_neg (key ▸ ha)] at this
      rw [htail, Prod.ext key hval]

end Sys2Proof.Machine
end

