-- ==== Sys2Proof/Laws/State.lean ====
section
/-! SUPPORT. One lemma per field per update, so that no later proof unfolds a record update; the fields an operation
computes (rules R100, R110, R130, R170) have their lemmas in Laws/Queue.lean. -/

namespace Sys2Proof.Machine

variable (s : State) (i : Int) (b : Byte) (r : Reading) (form : Byte → Status → Reading)

/-! ### setSlot -/

@[simp] theorem State.setSlot_cfg : (s.setSlot i b).cfg = s.cfg := rfl
@[simp] theorem State.setSlot_storage : (s.setSlot i b).storage = s.storage.write i.toNat b := rfl
@[simp] theorem State.setSlot_front : (s.setSlot i b).front = s.front := rfl
@[simp] theorem State.setSlot_endCursor : (s.setSlot i b).endCursor = s.endCursor := rfl
@[simp] theorem State.setSlot_resetSeen : (s.setSlot i b).resetSeen = s.resetSeen := rfl
@[simp] theorem State.setSlot_schedule : (s.setSlot i b).schedule = s.schedule := rfl
@[simp] theorem State.setSlot_freeIndex : (s.setSlot i b).freeIndex = s.freeIndex := rfl
@[simp] theorem State.setSlot_reading : (s.setSlot i b).reading = s.reading := rfl

/-! ### take -/

@[simp] theorem State.take_cfg : (s.take r).cfg = s.cfg := rfl
@[simp] theorem State.take_storage : (s.take r).storage = s.storage := rfl
@[simp] theorem State.take_front : (s.take r).front = s.front := rfl
@[simp] theorem State.take_endCursor : (s.take r).endCursor = s.endCursor := rfl
@[simp] theorem State.take_resetSeen : (s.take r).resetSeen = s.resetSeen := rfl
@[simp] theorem State.take_schedule : (s.take r).schedule = s.schedule := rfl
@[simp] theorem State.take_freeIndex : (s.take r).freeIndex = s.freeIndex := rfl
@[simp] theorem State.take_reading : (s.take r).reading = some r := rfl

/-! ### takeByte -/

@[simp] theorem State.takeByte_cfg : (s.takeByte form b).cfg = s.cfg := by
  unfold State.takeByte; split <;> rfl
@[simp] theorem State.takeByte_storage : (s.takeByte form b).storage = s.storage := by
  unfold State.takeByte; split <;> rfl
@[simp] theorem State.takeByte_front : (s.takeByte form b).front = s.front := by
  unfold State.takeByte; split <;> rfl
@[simp] theorem State.takeByte_endCursor : (s.takeByte form b).endCursor = s.endCursor := by
  unfold State.takeByte; split <;> rfl
@[simp] theorem State.takeByte_resetSeen : (s.takeByte form b).resetSeen = s.resetSeen := by
  unfold State.takeByte; split <;> rfl
@[simp] theorem State.takeByte_schedule : (s.takeByte form b).schedule = s.schedule := by
  unfold State.takeByte; split <;> rfl

/-! ### flushQueue and resetBlock -/

@[simp] theorem flushQueue_cfg : (flushQueue s).cfg = s.cfg := rfl
@[simp] theorem flushQueue_storage : (flushQueue s).storage = s.storage := rfl
@[simp] theorem flushQueue_front : (flushQueue s).front = -1 := rfl
@[simp] theorem flushQueue_endCursor : (flushQueue s).endCursor = -1 := rfl
@[simp] theorem flushQueue_resetSeen : (flushQueue s).resetSeen = s.resetSeen := rfl
@[simp] theorem flushQueue_schedule : (flushQueue s).schedule = s.schedule := rfl
@[simp] theorem flushQueue_freeIndex : (flushQueue s).freeIndex = s.freeIndex := rfl
@[simp] theorem flushQueue_reading : (flushQueue s).reading = s.reading := rfl

@[simp] theorem resetBlock_cfg : (resetBlock s).cfg = s.cfg := rfl
@[simp] theorem resetBlock_storage : (resetBlock s).storage = [] := rfl
@[simp] theorem resetBlock_front : (resetBlock s).front = -1 := rfl
@[simp] theorem resetBlock_endCursor : (resetBlock s).endCursor = -1 := rfl
@[simp] theorem resetBlock_resetSeen : (resetBlock s).resetSeen = true := rfl
@[simp] theorem resetBlock_schedule : (resetBlock s).schedule = s.schedule := rfl
@[simp] theorem resetBlock_freeIndex : (resetBlock s).freeIndex = s.freeIndex := rfl
@[simp] theorem resetBlock_reading : (resetBlock s).reading = s.reading := rfl

/-! ### enqueue: what it leaves alone, and the slot it writes -/

@[simp] theorem enqueue_cfg : (enqueue b s).cfg = s.cfg := rfl
@[simp] theorem enqueue_storage :
    (enqueue b s).storage = s.storage.write (adv s.cap s.endCursor).toNat b := rfl
@[simp] theorem enqueue_endCursor : (enqueue b s).endCursor = adv s.cap s.endCursor := rfl
@[simp] theorem enqueue_resetSeen : (enqueue b s).resetSeen = s.resetSeen := rfl
@[simp] theorem enqueue_schedule : (enqueue b s).schedule = s.schedule := rfl
@[simp] theorem enqueue_freeIndex : (enqueue b s).freeIndex = s.freeIndex := rfl
@[simp] theorem enqueue_reading : (enqueue b s).reading = s.reading := rfl

/-! ### dequeue: what it leaves alone -/

@[simp] theorem dequeue_cfg : (dequeue s).cfg = s.cfg := by unfold dequeue; split_ifs <;> rfl
@[simp] theorem dequeue_storage : (dequeue s).storage = s.storage := by
  unfold dequeue; split_ifs <;> rfl
@[simp] theorem dequeue_resetSeen : (dequeue s).resetSeen = s.resetSeen := by
  unfold dequeue; split_ifs <;> rfl
@[simp] theorem dequeue_schedule : (dequeue s).schedule = s.schedule := by
  unfold dequeue; split_ifs <;> rfl
@[simp] theorem dequeue_freeIndex : (dequeue s).freeIndex = s.freeIndex := by
  unfold dequeue; split_ifs <;> rfl
@[simp] theorem dequeue_reading : (dequeue s).reading = s.reading := by
  unfold dequeue; split_ifs <;> rfl

end Sys2Proof.Machine
end

