-- ==== Sys2Proof/Laws/Queue.lean ====
section
/-! SUPPORT. What each shared operation can do, said once: the flags, the circular advance, ENQ, DEQ, and the taking of
a byte with its status. -/

namespace Sys2Proof.Machine

theorem State.cap_pos (s : State) : 1 ≤ s.cap := by
  have := s.cfg.capacity_pos; simp only [State.cap]; omega

theorem State.isEmpty_iff (s : State) : s.isEmpty = true ↔ s.front = -1 := by
  simp [State.isEmpty]

theorem State.isFull_iff (s : State) :
    s.isFull = true ↔ (s.endCursor = s.cap - 1 ∧ s.front = 0) ∨ s.endCursor + 1 = s.front := by
  simp [State.isFull]

/-- The advance of a cursor is a slot (rule R26). -/
theorem adv_range {n i : Int} (h : -1 ≤ i) (h' : i < n) (hn : 1 ≤ n) : 0 ≤ adv n i ∧ adv n i < n := by
  unfold adv; split_ifs <;> omega

/-- ENQ answers one of three (rule R100): from empty, to slot 0; with room, `end` advances; full, both advance. -/
theorem enqueue_cases (b : Byte) {s : State} (h : s.cursorsLegal) :
    (s.front = -1 ∧ s.endCursor = -1 ∧ (enqueue b s).front = 0 ∧ (enqueue b s).endCursor = 0) ∨
    (0 ≤ s.front ∧ s.isFull = false ∧ (enqueue b s).front = s.front ∧
      (enqueue b s).endCursor = adv s.cap s.endCursor) ∨
    (0 ≤ s.front ∧ s.isFull = true ∧ (enqueue b s).front = adv s.cap s.front ∧
      (enqueue b s).endCursor = adv s.cap s.endCursor) := by
  have hc := s.cap_pos
  rcases h with ⟨hf, he⟩ | ⟨hf, he⟩
  · refine .inl ⟨hf, he, by simp [enqueue, hf], ?_⟩
    rw [enqueue_endCursor, he, adv, if_neg (by omega)]; rfl
  · have hne : s.front ≠ -1 := by omega
    cases hfull : s.isFull
    · exact .inr (.inl ⟨hf.1, rfl, by simp [enqueue, hne, hfull], rfl⟩)
    · exact .inr (.inr ⟨hf.1, rfl, by simp [enqueue, hne, hfull], rfl⟩)

/-- After an ENQ both cursors are slots (rule R40). -/
theorem enqueue_legal (b : Byte) {s : State} (h : s.cursorsLegal) : (enqueue b s).cursorsLegal := by
  have hc := s.cap_pos
  right
  rw [show (enqueue b s).cap = s.cap from rfl]
  have he := adv_range (n := s.cap) (i := s.endCursor) (by rcases h with h | h <;> omega)
    (by rcases h with h | h <;> omega) hc
  rcases enqueue_cases b h with ⟨-, -, h1, h2⟩ | ⟨hf, -, h1, h2⟩ | ⟨hf, -, h1, h2⟩
  · rw [h1, h2]; omega
  · rw [h1, h2]; exact ⟨by rcases h with h | h <;> omega, he⟩
  · have := adv_range (n := s.cap) (i := s.front) (by omega) (by rcases h with h | h <;> omega) hc
    rw [h1, h2]; exact ⟨this, he⟩

/-- Every slot after an ENQ (rule R100). -/
theorem enqueue_read (b : Byte) {s : State} (h : s.storage.wf) (a : Nat) :
    (enqueue b s).storage.read a =
      if a = (adv s.cap s.endCursor).toNat then b else s.storage.read a := by
  rw [enqueue_storage, Memory.read_write h]

/-- DEQ answers one of three (rule R110): empty, nothing; one element, the sentinel; else `front` advances. -/
theorem dequeue_cases (s : State) :
    (s.front = -1 ∧ dequeue s = s) ∨
    (s.front ≠ -1 ∧ s.front = s.endCursor ∧ (dequeue s).front = -1 ∧ (dequeue s).endCursor = -1) ∨
    (s.front ≠ -1 ∧ s.front ≠ s.endCursor ∧ (dequeue s).front = adv s.cap s.front ∧
      (dequeue s).endCursor = s.endCursor) := by
  by_cases h : s.front = -1
  · exact .inl ⟨h, by simp [dequeue, State.isEmpty, h]⟩
  · have hE : s.isEmpty = false := by simp [State.isEmpty, h]
    by_cases h' : s.front = s.endCursor
    · exact .inr (.inl ⟨h, h', by simp [dequeue, hE, h'], by simp [dequeue, hE, h']⟩)
    · exact .inr (.inr ⟨h, h', by simp [dequeue, hE, h'], by simp [dequeue, hE, h']⟩)

/-- A DEQ keeps the cursors a pair that the block can have (rule R40). -/
theorem dequeue_legal {s : State} (h : s.cursorsLegal) : (dequeue s).cursorsLegal := by
  have hc := s.cap_pos
  rcases dequeue_cases s with ⟨-, h1⟩ | ⟨-, -, h1, h2⟩ | ⟨hf, -, h1, h2⟩
  · rwa [h1]
  · exact .inl ⟨h1, h2⟩
  · right
    rw [show (dequeue s).cap = s.cap by simp [State.cap], h1, h2]
    have := adv_range (n := s.cap) (i := s.front) (by rcases h with h | h <;> omega)
      (by rcases h with h | h <;> omega) hc
    exact ⟨this, by rcases h with h | h <;> omega⟩

/-- The consumer takes the byte the port shows with `Ok`, or a free value with `Empty` (rule R110, I3). -/
theorem State.takeByte_cases (s : State) (form : Byte → Status → Reading) (port : Byte) :
    (s.front = -1 ∧ (s.takeByte form port).reading = some (form (Config.emptyByte s.freeIndex) .empty) ∧
      (s.takeByte form port).freeIndex = s.freeIndex + 1) ∨
    (s.front ≠ -1 ∧ (s.takeByte form port).reading = some (form port .ok) ∧
      (s.takeByte form port).freeIndex = s.freeIndex) := by
  by_cases h : s.front = -1
  · exact .inl ⟨h, by simp [State.takeByte, State.isEmpty, h], by simp [State.takeByte, State.isEmpty, h]⟩
  · exact .inr ⟨h, by simp [State.takeByte, State.isEmpty, h], by simp [State.takeByte, State.isEmpty, h]⟩

/-- The data outputs of a queue that is not empty (rules R120 and R121). -/
theorem State.firstData_of_nonempty {s : State} (h : s.front ≠ -1) : s.firstData = s.slot s.front := by
  simp [State.firstData, State.isEmpty, h]

theorem State.lastData_of_nonempty {s : State} (h : s.front ≠ -1) : s.lastData = s.slot s.endCursor := by
  simp [State.lastData, State.isEmpty, h]

end Sys2Proof.Machine
end

