-- ==== Sys2Proof/Laws/Exec.lean ====
section
/-! SUPPORT. When a command answers a next state, and what a step runs. -/

namespace Sys2Proof.Machine

theorem whenReady_of_ready {s : State} (h : s.Ready) (k : Result) : whenReady s k = k := by
  rw [whenReady, if_pos h.1, if_pos h.2]

/-- A checked command answers a next state exactly from a ready state (rules R40 and R173). -/
theorem whenReady_eq_next {s t : State} {k : Result} :
    whenReady s k = .next t ↔ s.Ready ∧ k = .next t := by
  constructor
  · intro h
    unfold whenReady at h
    split_ifs at h with h1 h2
    exact ⟨⟨h1, h2⟩, h⟩
  · rintro ⟨h, hk⟩
    rw [whenReady_of_ready h, hk]

/-- A command that breaks the environment contract answers a next state only where the contract is not enforced. -/
theorem underContract_eq_next {s t : State} {r : Refusal} {k : Result} :
    underContract s r k = .next t ↔ s.cfg.contract = .hardware ∧ k = .next t := by
  unfold underContract
  cases s.cfg.contract <;> simp

/-- What each instruction answers, when it answers a next state: one equation per row of the opcode table. -/
theorem exec_next_cases {i : Instr} {s t : State} (h : exec i s = .next t) :
    (i = .reset ∧ t = resetBlock s) ∨
    (s.Ready ∧
      ((i = .nop ∧ t = s) ∨
       (∃ b, i = .enq b ∧ t = enqueue b s) ∨
       (i = .deq ∧ t = takeDequeue s) ∨
       (∃ b, i = .enqdeq b ∧ t = enqueue b (takeDequeue s)) ∨
       (i = .flush ∧ t = flushQueue s) ∨
       (∃ b, i = .flushenq b ∧ s.cfg.contract = .hardware ∧ t = enqueue b (flushQueue s)) ∨
       (i = .rsvd none ∧ s.cfg.contract = .hardware ∧ t = s) ∨
       (∃ b, i = .rsvd (some b) ∧ s.cfg.contract = .hardware ∧ t = enqueue b s) ∨
       (i = .peekFirst ∧ t = s.takeByte .first s.firstData) ∨
       (i = .peekLast ∧ t = s.takeByte .last s.lastData) ∨
       (i = .occupancy ∧ t = s.take (.occupancy s.count.toNat)) ∨
       (i = .empty ∧ t = s.take (.empty s.isEmpty)) ∨
       (i = .full ∧ t = s.take (.full s.isFull)))) := by
  have next_inj : ∀ {u : State}, (Host.Outcome.next u : Result) = .next t → t = u := by
    intro u h; cases h; rfl
  cases i with
  | reset => exact .inl ⟨rfl, next_inj h⟩
  | rsvd operand =>
    obtain ⟨hr, h⟩ := whenReady_eq_next.1 h
    obtain ⟨hc, h⟩ := underContract_eq_next.1 h
    cases operand with
    | none => exact .inr ⟨hr, by simp [hc, next_inj h]⟩
    | some b => exact .inr ⟨hr, by simp [hc, next_inj h]⟩
  | flushenq b =>
    obtain ⟨hr, h⟩ := whenReady_eq_next.1 h
    obtain ⟨hc, h⟩ := underContract_eq_next.1 h
    exact .inr ⟨hr, by simp [hc, next_inj h]⟩
  | _ =>
    obtain ⟨hr, h⟩ := whenReady_eq_next.1 h
    exact .inr ⟨hr, by simp [next_inj h]⟩

/-- A step runs the instruction of the next stimulus. -/
theorem step_of_cons {s : State} {e : Stimulus} {rest : List Stimulus} (h : s.schedule = e :: rest) :
    step s = exec (Stimulus.instr e) { s with schedule := rest } := by
  unfold step State.nextStimulus; rw [h]

/-- With no stimulus placed, a step runs a free one. -/
theorem step_of_nil {s : State} (h : s.schedule = []) :
    step s = exec (Stimulus.instr (Config.environment s.freeIndex)) { s with freeIndex := s.freeIndex + 1 } := by
  unfold step State.nextStimulus; rw [h]

end Sys2Proof.Machine
end

