-- ==== Sys2Proof/Laws/PerInstr.lean ====
section
/-! SUPPORT. A family of statements with one lemma per constructor of `Instr`: an instruction has a command word exactly
when it is well formed (rules R74 and R81). -/

namespace Sys2Proof.Laws.HasWord

/-- The encoder answers a word exactly for a well-formed instruction. -/
def Statement (i : Instr) : Prop := (encode i).isSome = i.wellFormed

theorem reset : Statement .reset := rfl
theorem nop : Statement .nop := rfl
theorem enq (b : Byte) : Statement (.enq b) := rfl
theorem deq : Statement .deq := rfl
theorem enqdeq (b : Byte) : Statement (.enqdeq b) := rfl
theorem flush : Statement .flush := rfl
theorem flushenq (b : Byte) : Statement (.flushenq b) := rfl
theorem rsvd (operand : Option Byte) : Statement (.rsvd operand) := by cases operand <;> rfl
theorem peekFirst : Statement .peekFirst := rfl
theorem peekLast : Statement .peekLast := rfl
theorem occupancy : Statement .occupancy := rfl
theorem empty : Statement .empty := rfl
theorem full : Statement .full := rfl

end Sys2Proof.Laws.HasWord
end

