-- ==== Sys2Proof/Tests/Slice0.lean ====
section
/-! SUPPORT. Tests. Expected results are those of spec/95_test_vectors.md (the vector is named in each comment) or written
out by hand from the rule named. The last section shows, for every statement with hypotheses, states that meet them. -/

namespace Sys2Proof.Tests

open Sys2Proof.Machine

/-! ### Ill-formed commands: a query has no command word (rule R74) -/

theorem test_peekFirst_illFormed : Instr.wellFormed .peekFirst = false := by decide
theorem test_peekLast_illFormed : Instr.wellFormed .peekLast = false := by decide
theorem test_occupancy_illFormed : Instr.wellFormed .occupancy = false := by decide
theorem test_empty_illFormed : Instr.wellFormed .empty = false := by decide
theorem test_full_illFormed : Instr.wellFormed .full = false := by decide

/-! ### Decoding: `rst`, `cmd`, `enq_valid`, `enq_data` written out bit by bit (rule R81, vectors L2-G) -/

theorem test_decode_reset : decode 0b1_00_0_00000000 = .reset := by decide
theorem test_decode_reset_ignores : decode 0b1_11_1_11111111 = .reset := by decide
theorem test_decode_nop : decode 0b0_00_0_11111111 = .nop := by decide
theorem test_decode_enq : decode 0b0_00_1_01000001 = .enq 0x41 := by decide
theorem test_decode_deq : decode 0b0_01_0_00000000 = .deq := by decide
theorem test_decode_enqdeq : decode 0b0_01_1_10100011 = .enqdeq 0xA3 := by decide
theorem test_decode_flush : decode 0b0_10_0_00000000 = .flush := by decide
theorem test_decode_flushenq : decode 0b0_10_1_01110111 = .flushenq 0x77 := by decide
theorem test_decode_rsvd : decode 0b0_11_0_00000000 = .rsvd none := by decide
theorem test_decode_rsvd_enqueue : decode 0b0_11_1_11111111 = .rsvd (some 0xFF) := by decide
theorem test_decode_tooWide : decodeNumber 0x1000 = .error .widerThanTwelveBits := by decide
theorem test_tableWord : decodeTableWord 16 0x3A3 = some (.enqdeq 0xA3) := by decide

/-- The canonical words of rule R83's examples. -/
theorem test_encode_words :
    encode (.enq 0x41) = some 0x141 ∧ encode .deq = some 0x200 ∧ encode (.enqdeq 0xA3) = some 0x3A3 ∧
      encode .flush = some 0x400 ∧ encode .reset = some 0x800 ∧ encode .nop = some 0x000 := by decide

/-- Rule R83's examples as trace lines. -/
theorem test_traceLine :
    assembleLine ['E', 'N', 'Q', 'D', 'E', 'Q', ' ', '0', 'x', 'A', '3', ' ', ';', 'x'] = some 0x3A3 := by
  decide

/-! ### Single steps -/

/-- The storage with these bytes in slots 0, 1, ... -/
def storageOf (slots : List Byte) : Memory :=
  slots.zipIdx.foldl (fun (m : Memory) c => Memory.write m c.2 c.1) []

/-- A block of CAPACITY `n + 1`, with the slots as listed. -/
def block (n : Nat) (front endCursor : Int) (slots : List Byte) : State :=
  { State.resetOf ⟨n + 1, Nat.le_add_left 1 n, .hardware⟩ with
    storage := storageOf slots
    front := front
    endCursor := endCursor }

/-- The same block, with the environment contract enforced. -/
def enforced (s : State) : State := { s with cfg := { s.cfg with contract := .enforced } }

/-- The state after the edge with word `w` has these cursors and slots. -/
def gives (s : State) (w : Nat) (front endCursor : Int) (slots : List Byte) : Bool :=
  match step (s.withFetchWord 16 w) with
  | .next t =>
    t.front == front && t.endCursor == endCursor &&
      t.storage == storageOf slots && t.schedule == []
  | _ => false

/-- The consumer's last result after an edge or a reading. -/
def takes (s : State) (e : Stimulus) (r : Reading) : Bool :=
  match step { s with schedule := [e] } with
  | .next t => t.reading == some r
  | _ => false

/-- B4: `end` wraps 3 → 0. -/
theorem test_enq_wraps : gives (block 3 2 3 [0, 0, 3, 4]) 0x105 2 0 [5, 0, 3, 4] = true := by decide
/-- B7: full, evicts 04, `front` wraps 3 → 0. -/
theorem test_enq_evicts : gives (block 3 3 2 [5, 6, 7, 4]) 0x108 0 3 [5, 6, 7, 8] = true := by decide
/-- C4: `front` wraps, and the byte removed is 04. -/
theorem test_deq_wraps : gives (block 3 3 1 [5, 6, 0, 4]) 0x200 0 1 [5, 6, 0, 4] = true ∧
    takes (block 3 3 1 [5, 6, 0, 4]) (.edge 0x200) (.dequeued 4 .ok) = true := by decide
/-- C2: a single element, both cursors to -1, the byte stays in its slot. -/
theorem test_deq_last : gives (block 3 2 2 [0, 0, 7, 0]) 0x200 (-1) (-1) [0, 0, 7, 0] = true := by decide
/-- F3: ENQDEQ on a full queue evicts nothing and returns A1. -/
theorem test_enqdeq_full : gives (block 1 0 1 [0xA1, 0xA2]) 0x3A3 1 0 [0xA3, 0xA2] = true ∧
    takes (block 1 0 1 [0xA1, 0xA2]) (.edge 0x3A3) (.dequeued 0xA1 .ok) = true := by decide
/-- F1: ENQDEQ on an empty queue has no bypass. -/
theorem test_enqdeq_empty : gives (block 1 (-1) (-1) [0, 0]) 0x3A0 0 0 [0xA0, 0] = true := by decide
/-- E1: FLUSH leaves the storage. -/
theorem test_flush : gives (block 2 1 1 [1, 2, 0]) 0x400 (-1) (-1) [1, 2, 0] = true := by decide
/-- F6, the pseudocode of the hardware. -/
theorem test_flushenq : gives (block 3 1 0 [5, 2, 3, 4]) 0x577 0 0 [0x77, 2, 3, 4] = true := by decide
/-- F6, refused by a model (rule R177). -/
theorem test_flushenq_refused :
    exec (.flushenq 0x77) (enforced (block 3 1 0 [5, 2, 3, 4])) = .refused .flushWithEnqueue := rfl
/-- F9 and F10, the pseudocode of the hardware. -/
theorem test_rsvd : gives (block 3 0 2 [1, 2, 3, 0]) 0x600 0 2 [1, 2, 3, 0] = true ∧
    gives (block 3 0 2 [1, 2, 3, 0]) 0x709 0 3 [1, 2, 3, 9] = true := by decide
/-- F9, refused by a model (rule R178). -/
theorem test_rsvd_refused :
    exec (.rsvd none) (enforced (block 3 0 2 [1, 2, 3, 0])) = .refused .reservedCommand := rfl
/-- F8: `enq_data` is ignored. -/
theorem test_nop : gives (block 3 0 2 [1, 2, 3, 0]) 0x0FF 0 2 [1, 2, 3, 0] = true := by decide
/-- F12: RESET discards a simultaneous enqueue. -/
theorem test_reset : gives (block 3 1 0 [5, 2, 3, 4]) 0xB55 (-1) (-1) [0, 0, 0, 0] = true := by decide
/-- D2. -/
theorem test_peekFirst : takes (block 3 1 0 [5, 2, 3, 4]) (.sample .peekFirst) (.first 2 .ok) = true := by
  decide
/-- D2. -/
theorem test_peekLast : takes (block 3 1 0 [5, 2, 3, 4]) (.sample .peekLast) (.last 5 .ok) = true := by
  decide
/-- D4, and D2's full count. -/
theorem test_occupancy : takes (block 3 3 1 [5, 6, 0, 4]) (.sample .occupancy) (.occupancy 3) = true ∧
    takes (block 3 1 0 [5, 2, 3, 4]) (.sample .occupancy) (.occupancy 4) = true := by decide
/-- D1 and D3. -/
theorem test_empty : takes (block 3 (-1) (-1) [5, 2, 3, 4]) (.sample .empty) (.empty true) = true ∧
    takes (block 3 2 2 [0, 0, 7, 0]) (.sample .empty) (.empty false) = true := by decide
/-- D5 (CAPACITY 1) and D3. -/
theorem test_full : takes (block 0 0 0 [0x13]) (.sample .full) (.full true) = true ∧
    takes (block 3 2 2 [0, 0, 7, 0]) (.sample .full) (.full false) = true := by decide

/-! ### States that meet the statements' hypotheses -/

/-- CAPACITY 4: empty after a flush, one element, partly full, wrapped, full. -/
def emptyBlock : State := block 3 (-1) (-1) [5, 2, 3, 4]
def oneByte : State := block 3 2 2 [0, 0, 7, 0]
def partly : State := block 3 0 2 [1, 2, 3, 0]
def wrapped : State := block 3 3 1 [5, 6, 0, 4]
def fullBlock : State := block 3 1 0 [5, 2, 3, 4]
/-- CAPACITY 1, full. -/
def fullOne : State := block 0 0 0 [0x13]
/-- Before the first reset. -/
def unreset : State := { block 3 0 7 [1, 2, 3, 4] with resetSeen := false }
/-- Cursors that no run reaches. -/
def broken : State := block 3 (-1) 2 [1, 2, 3, 0]

theorem witness_DecodeEncodeRoundTrip :
    Instr.wellFormed (.enq 0xFF) = true ∧ Instr.wellFormed (.rsvd (some 0x80)) = true := by decide

theorem witness_ResetIgnoresEveryOtherInput : wordRst 0x800 = true ∧ wordRst 0xFFF = true := by decide

theorem witness_EnqDataIsReadOnlyWhenValid :
    (wordRst 0x200 = wordRst 0x2FF ∧ wordCmd 0x200 = wordCmd 0x2FF ∧ wordEnqValid 0x200 = false ∧
      wordEnqValid 0x2FF = false) ∧
    (fullBlock.Inv ∧ fullBlock.Ready ∧ wordRst 0x3A3 = false ∧ wordEnqValid 0x3A3 = true ∧
      keepsContract 0x3A3) := by decide

theorem witness_StepRunsDecodedInstruction :
    ({ partly with schedule := [.edge 0x141] } : State).schedule = .edge 0x141 :: [] ∧
    decode 0x141 = .enq 0x41 ∧ Instr.wellFormed (.enq 0x41) = true ∧
    ({ partly with schedule := [.sample .full] } : State).schedule = .sample .full :: [] ∧
    partly.schedule = [] := by decide

theorem witness_CommandsFollowPortPriority : partly.Ready ∧ partly.cfg.contract = .hardware := by decide

theorem witness_NopHoldsState : partly.Ready := by decide

theorem witness_FlushEmptiesAndKeepsStorage : fullBlock.Ready := by decide

theorem witness_FlushContentsAreEmpty : wrapped.Ready := by decide

theorem witness_EnqWritesSlotAndMovesCursors :
    (emptyBlock.Inv ∧ emptyBlock.Ready ∧ emptyBlock.front = -1) ∧
    (partly.Inv ∧ partly.Ready ∧ partly.front ≠ -1 ∧ partly.occ < partly.cap) ∧
    (fullBlock.Inv ∧ fullBlock.Ready ∧ fullBlock.front ≠ -1 ∧ fullBlock.occ = fullBlock.cap) ∧
    (fullOne.Inv ∧ fullOne.Ready ∧ fullOne.front ≠ -1 ∧ fullOne.occ = fullOne.cap) :=
  ⟨by decide, by decide, by decide, by decide⟩

theorem witness_EnqAppendsAndEvictsOldest :
    (partly.Inv ∧ partly.Ready ∧ partly.occ ≠ partly.cap) ∧
    (fullBlock.Inv ∧ fullBlock.Ready ∧ fullBlock.occ = fullBlock.cap) := by decide

theorem witness_EvictionLeavesNoTrace :
    fullBlock.Inv ∧ fullBlock.Ready ∧ (block 3 0 2 [3, 4, 5, 0]).Inv ∧ (block 3 0 2 [3, 4, 5, 0]).Ready ∧
      (block 3 0 2 [3, 4, 5, 0]).cfg = fullBlock.cfg ∧ fullBlock.occ = fullBlock.cap ∧
      fullBlock.contents = 2 :: (block 3 0 2 [3, 4, 5, 0]).contents := by decide

theorem witness_DeqReturnsOldestAndMovesFront :
    (emptyBlock.Ready ∧ emptyBlock.front = -1) ∧
    (oneByte.Ready ∧ oneByte.front ≠ -1 ∧ oneByte.front = oneByte.endCursor) ∧
    (wrapped.Ready ∧ wrapped.front ≠ -1 ∧ wrapped.front ≠ wrapped.endCursor) := by decide

theorem witness_DeqRemovesHeadOfContents :
    (emptyBlock.Inv ∧ emptyBlock.Ready ∧ emptyBlock.contents = []) ∧
    (wrapped.Inv ∧ wrapped.Ready ∧ wrapped.contents = 4 :: [5, 6]) := by decide

theorem witness_EnqdeqDequeuesThenEnqueues :
    (emptyBlock.Inv ∧ emptyBlock.Ready ∧ emptyBlock.front = -1) ∧
    (oneByte.Inv ∧ oneByte.Ready ∧ oneByte.front ≠ -1 ∧ oneByte.front = oneByte.endCursor) ∧
    (fullBlock.Inv ∧ fullBlock.Ready ∧ fullBlock.front ≠ -1 ∧ fullBlock.front ≠ fullBlock.endCursor) :=
  ⟨by decide, by decide, by decide⟩

theorem witness_LastDataIsTheEnqueuedByte :
    fullBlock.Inv ∧ fullBlock.Ready ∧ fullBlock.cfg.contract = .hardware ∧
      ((.enqdeq 9 : Instr) = .enq 9 ∨ (.enqdeq 9 : Instr) = .enqdeq 9 ∨ (.enqdeq 9 : Instr) = .flushenq 9 ∨
        (.enqdeq 9 : Instr) = .rsvd (some 9)) := by decide

theorem witness_FlushenqLeavesOneByte :
    wrapped.Inv ∧ wrapped.Ready ∧ wrapped.cfg.contract = .hardware := by decide

theorem witness_RsvdIsNopOrEnq : fullBlock.Ready ∧ fullBlock.cfg.contract = .hardware := by decide

theorem witness_EnforcedContractRefusesItsBreaches :
    (enforced partly).Ready ∧ (enforced partly).cfg.contract = .enforced ∧ keepsContract 0x400 ∧
      ¬ keepsContract 0x577 ∧ ¬ keepsContract 0x600 := by decide

theorem witness_PeeksReturnEndsOfContents :
    (emptyBlock.Ready ∧ emptyBlock.front = -1) ∧ (wrapped.Ready ∧ wrapped.front ≠ -1) := by decide

theorem witness_OccupancyReadsNumberOfBytes : emptyBlock.Ready ∧ fullBlock.Ready ∧ fullOne.Ready := by decide

theorem witness_EmptyAndFullReadTheirConditions : emptyBlock.Ready ∧ fullBlock.Ready ∧ partly.Ready := by
  decide

theorem witness_ReadingOutputsHasNoSideEffect :
    ({ wrapped with schedule := [.sample .peekFirst, .sample .full] } : State).Ready ∧
    ({ wrapped with schedule := [.sample .peekFirst, .sample .full] } : State).schedule =
      [Query.peekFirst, Query.full].map .sample := by decide

theorem witness_AdvanceIsCircular :
    (1 : Int) ≤ 4 ∧ (-1 : Int) ≤ 3 ∧ (3 : Int) < 4 ∧ (0 : Int) ≤ 3 := by decide

theorem witness_OccupancyCasesAndRange :
    (emptyBlock.cursorsLegal ∧ emptyBlock.front = -1) ∧
    (partly.cursorsLegal ∧ partly.front ≠ -1 ∧ partly.front < partly.endCursor) ∧
    (wrapped.cursorsLegal ∧ wrapped.front ≠ -1 ∧ wrapped.endCursor < wrapped.front) ∧
    (oneByte.cursorsLegal ∧ oneByte.front ≠ -1 ∧ oneByte.front = oneByte.endCursor) := by decide

theorem witness_FullExactlyAtCapacity :
    (fullBlock.cursorsLegal ∧ fullBlock.occ = fullBlock.cap) ∧ (fullOne.cursorsLegal ∧ fullOne.occ = fullOne.cap) ∧
    (partly.cursorsLegal ∧ partly.occ ≠ partly.cap) := by decide

theorem witness_SentinelsAndZeroOccupancyAgree :
    (emptyBlock.cursorsLegal ∧ emptyBlock.occ = 0) ∧ (oneByte.cursorsLegal ∧ oneByte.occ ≠ 0) := by decide

theorem witness_ContentsAreTheOccupiedSpan :
    wrapped.cursorsLegal ∧ wrapped.front ≠ -1 ∧ (2 : Int) < wrapped.occ ∧ wrapped.occupied 3 ∧
      wrapped.occupied 1 ∧ ¬ wrapped.occupied 2 := by decide

theorem witness_CeilingLogIsLeast : 1 ≤ 129 ∧ 129 ≤ 2 ^ 8 := by decide

theorem witness_CountCarriesTheOccupancy :
    fullBlock.cursorsLegal ∧ 4 ≤ fullBlock.cfg.capacity := by decide

theorem witness_CursorCodesDetermineCursors :
    (-1 : Int) ≤ -1 ∧ (3 : Int) < Config.atReset.capacity ∧ (0 : Int) ≤ 3 := by decide

theorem witness_EveryStepKeepsInvariant :
    ({ fullBlock with schedule := [.edge 0x105] } : State).Inv ∧
    ∃ t, step { fullBlock with schedule := [.edge 0x105] } = .next t := ⟨by decide, _, rfl⟩

theorem witness_EveryStepKeepsInvariant_unreset :
    ({ unreset with schedule := [.edge 0x800] } : State).Inv ∧
    ∃ t, step { unreset with schedule := [.edge 0x800] } = .next t := ⟨by decide, _, rfl⟩

theorem witness_OnlyResetRunsInUnreadyStates :
    unreset.resetSeen = false ∧ (Instr.nop ≠ .reset) ∧ ¬ unreset.Ready ∧
      broken.resetSeen = true ∧ ¬ broken.cursorsLegal := by decide

theorem witness_EveryLegalQueueIsReachable :
    (0 : Int) ≤ 3 ∧ (3 : Int) < Config.atReset.capacity ∧ (0 : Int) ≤ 1 ∧ (1 : Int) < Config.atReset.capacity ∧
      (([4, 5, 6] : List Byte).length : Int) = (1 - 3) % Config.atReset.capacity + 1 := by decide

theorem witness_OnlyTheNamedWritersWrite :
    fullBlock.Inv ∧ (∃ t, exec (.enq 9) fullBlock = .next t ∧ t.front ≠ fullBlock.front ∧
      t.endCursor ≠ fullBlock.endCursor ∧ t.storage.read 1 ≠ fullBlock.storage.read 1) ∧
    oneByte.Inv ∧ ∃ t, exec .deq oneByte = .next t ∧ t.endCursor ≠ oneByte.endCursor :=
  ⟨by decide, ⟨_, rfl, by decide, by decide, by decide⟩, by decide, _, rfl, by decide⟩

theorem witness_ContentsFollowTheListQueue :
    (wrapped.Inv ∧ wrapped.Ready ∧ wrapped.cfg.contract = .hardware ∧ wrapped.contents = 4 :: [5, 6]) ∧
    (emptyBlock.Inv ∧ emptyBlock.Ready ∧ emptyBlock.cfg.contract = .hardware ∧ emptyBlock.contents = []) := by
  decide

theorem witness_OnlyContentsCanBeObserved :
    wrapped.Inv ∧ wrapped.Ready ∧ (block 3 0 2 [4, 5, 6, 9]).Inv ∧ (block 3 0 2 [4, 5, 6, 9]).Ready ∧
      wrapped.cfg.contract = .hardware ∧ (block 3 0 2 [4, 5, 6, 9]).cfg = wrapped.cfg ∧
      (block 3 0 2 [4, 5, 6, 9]).contents = wrapped.contents ∧
      (block 3 0 2 [4, 5, 6, 9]).freeIndex = wrapped.freeIndex ∧
      (block 3 0 2 [4, 5, 6, 9]).reading = wrapped.reading := by decide

theorem witness_OccupancyIsEnqueuesLessDequeues :
    (∀ i ∈ [Instr.enq 1, .enq 2, .deq], i = .deq ∨ ∃ b, i = .enq b) ∧
    [Instr.enq 1, .enq 2, .deq].length - [Instr.enq 1, .enq 2, .deq].count .deq ≤ Config.atReset.capacity ∧
    ∃ t, execOkDequeues [.enq 1, .enq 2, .deq] (State.resetOf Config.atReset) = some t :=
  ⟨by simp, by decide, _, rfl⟩

theorem witness_DrainReturnsContentsInOrder : wrapped.Inv ∧ wrapped.Ready := by decide

theorem witness_ReadNReturnsOldestBytes : wrapped.Inv ∧ wrapped.Ready ∧ 3 ≤ wrapped.contents.length := by
  decide

theorem witness_ReadNLosesNothing :
    emptyBlock.Inv ∧ emptyBlock.Ready ∧
      ∃ t, readN 2 [none, some 0x30, some 0x31, none, none] emptyBlock = some ([0x30, 0x31], [none], t) :=
  ⟨by decide, by decide, _, rfl⟩

theorem witness_InstancesShareNothing :
    [partly, { fullBlock with schedule := [.edge 0x200] }][1]? =
        some { fullBlock with schedule := [.edge 0x200] } ∧
      ∃ t, step { fullBlock with schedule := [.edge 0x200] } = .next t := ⟨by decide, _, rfl⟩

theorem witness_TraceLinesReadBack :
    traceLine .deq = some ['D', 'E', 'Q'] ∧
      traceLine (.enq 0x41) = some ['E', 'N', 'Q', ' ', '0', 'x', '4', '1'] := by decide

end Sys2Proof.Tests
end

