-- ==== Sys2Proof/Proofs/CeilingLog.lean ====
section
/-! PROOF. `clog2` against the powers of two (rule R7). -/

namespace Sys2Proof.Machine

theorem clog2_of_le_one {n : Nat} (h : n ≤ 1) : clog2 n = 0 := if_pos h

theorem clog2_of_one_lt {n : Nat} (h : 1 < n) : clog2 n = (n - 1).log2 + 1 := if_neg (by omega)

/-- `clog2` and `2 ^ ·` form a Galois connection, so that the two halves of rule R7 are the two directions of one
equivalence. Above 1 it is the one of the floor logarithm, moved from `n` to `n - 1`. -/
theorem clog2_le_iff {n k : Nat} : clog2 n ≤ k ↔ n ≤ 2 ^ k := by
  obtain h | h := le_or_gt n 1
  · have hk : n ≤ 2 ^ k := h.trans Nat.one_le_two_pow
    simp [clog2_of_le_one h, hk]
  · calc clog2 n ≤ k ↔ (n - 1).log2 < k := by rw [clog2_of_one_lt h, Nat.succ_le_iff]
      _ ↔ n - 1 < 2 ^ k := Nat.log2_lt (by omega)
      _ ↔ n ≤ 2 ^ k := by omega

/-- Settles O32: the exponent `clog2 n` itself gives the bound, any other exponent gives leastness. -/
theorem ceilingLogIsLeast : Obligations.CeilingLogIsLeast :=
  ⟨fun _ _ => ⟨clog2_le_iff.mp le_rfl, fun _ => clog2_le_iff.mpr⟩, by decide⟩

end Sys2Proof.Machine
end

/-! PROOF. The cursors: the advance as a remainder, and the occupancy of a pair that the block can have (rules
R23-R30). -/

namespace Sys2Proof.Machine

/-! ### The circular advance -/

/-- A sum of two slots needs at most one turn. With this, a remainder by CAPACITY is a linear term for `omega`. -/
theorem emod_eq_ite_sub {n i : Int} (h0 : 0 ≤ i) (h : i < 2 * n) :
    i % n = if i < n then i else i - n := by
  split_ifs with hi
  · exact Int.emod_eq_of_lt h0 hi
  · rw [← Int.sub_emod_right, Int.emod_eq_of_lt (by omega) (by omega)]

theorem adv_eq_emod {n i : Int} (hn : 1 ≤ n) (h : -1 ≤ i) (h' : i < n) : adv n i = (i + 1) % n := by
  rw [adv, emod_eq_ite_sub (by omega) (by omega)]
  split_ifs <;> omega

/-- Settles O27: by definition for the two cases, and `adv_eq_emod` for the remainder. -/
theorem advanceIsCircular : Obligations.AdvanceIsCircular := by
  intro n hn
  have hsentinel : (-1 : Int) ≠ n - 1 := by omega
  exact ⟨fun _ _ _ => rfl, by simp [adv, hsentinel], fun i h h' => adv_eq_emod hn (by omega) h', rfl⟩

/-! ### Occupancy -/

/-- The pairs of cursors of a block, with their occupancy (rule R27): the sentinels, a span that does not wrap, and one
that does. -/
theorem State.occ_cases {s : State} (h : s.cursorsLegal) :
    (s.front = -1 ∧ s.endCursor = -1 ∧ s.occ = 0) ∨
    (0 ≤ s.front ∧ s.front ≤ s.endCursor ∧ s.endCursor < s.cap ∧
      s.occ = s.endCursor - s.front + 1) ∨
    (0 ≤ s.endCursor ∧ s.endCursor < s.front ∧ s.front < s.cap ∧
      s.occ = s.cap - s.front + s.endCursor + 1) := by
  unfold State.occ
  rcases h with ⟨hf, he⟩ | ⟨hf, he⟩ <;> split_ifs <;> omega

/-- Without the sentinels both cursors are slots. -/
theorem State.cursors_range {s : State} (h : s.cursorsLegal) (hf : s.front ≠ -1) :
    (0 ≤ s.front ∧ s.front < s.cap) ∧ (0 ≤ s.endCursor ∧ s.endCursor < s.cap) :=
  h.resolve_left fun hsentinels => hf hsentinels.1

theorem State.occ_nonneg {s : State} (h : s.cursorsLegal) : 0 ≤ s.occ := by
  rcases State.occ_cases h with h | h | h <;> omega

theorem State.occ_le_cap {s : State} (h : s.cursorsLegal) : s.occ ≤ s.cap := by
  have := s.cap_pos
  rcases State.occ_cases h with h | h | h <;> omega

theorem State.front_eq_sentinel_iff_occ {s : State} (h : s.cursorsLegal) : s.front = -1 ↔ s.occ = 0 := by
  rcases State.occ_cases h with h | h | h <;> omega

theorem State.occ_pos {s : State} (h : s.cursorsLegal) (hf : s.front ≠ -1) : 1 ≤ s.occ := by
  have := State.occ_nonneg h
  have := mt (State.front_eq_sentinel_iff_occ h).2 hf
  omega

theorem State.isFull_iff_occ {s : State} (h : s.cursorsLegal) : s.isFull = true ↔ s.occ = s.cap := by
  have := s.cap_pos
  rw [State.isFull_iff]
  rcases State.occ_cases h with h | h | h <;> omega

/-- An empty queue is not full, since CAPACITY is at least 1 (rule R5). -/
theorem State.isFull_of_sentinel {s : State} (h : s.cursorsLegal) (hf : s.front = -1) : s.isFull = false := by
  have hocc := (State.front_eq_sentinel_iff_occ h).1 hf
  have hcap := s.cap_pos
  rw [Bool.eq_false_iff, Ne, State.isFull_iff_occ h]
  omega

/-- Rule R27: a span that wraps has its difference of cursors one turn below. -/
theorem State.occ_eq_emod {s : State} (h : s.cursorsLegal) (hf : s.front ≠ -1) :
    s.occ = (s.endCursor - s.front) % s.cap + 1 := by
  rcases State.occ_cases h with ⟨h', -⟩ | ⟨h0, hle, hlt, ho⟩ | ⟨h0, hlt, hcap, ho⟩
  · exact absurd h' hf
  · rw [ho, Int.emod_eq_of_lt (by omega) (by omega)]
  · rw [ho, ← Int.add_emod_right, Int.emod_eq_of_lt (by omega) (by omega)]
    omega

/-- Settles O28: one case of `occ_cases` for each clause, then the remainder form and the range. -/
theorem occupancyCasesAndRange : Obligations.OccupancyCasesAndRange := by
  intro s h
  refine ⟨(State.front_eq_sentinel_iff_occ h).1, ?_, ?_, ?_,
    fun hf => ⟨State.occ_eq_emod h hf, State.occ_pos h hf, State.occ_le_cap h⟩⟩
  all_goals rcases State.occ_cases h with h | h | h <;> omega

/-- Settles O29, by `isFull_iff_occ` and the bounds of the occupancy. -/
theorem fullExactlyAtCapacity : Obligations.FullExactlyAtCapacity := fun _ h =>
  ⟨State.occ_nonneg h, State.occ_le_cap h, State.isFull_iff_occ h⟩

/-- Settles O30: the two cursors are the sentinel together because the pair is legal. -/
theorem sentinelsAndZeroOccupancyAgree : Obligations.SentinelsAndZeroOccupancyAgree := by
  intro s h
  have hocc := State.front_eq_sentinel_iff_occ h
  refine ⟨?_, hocc, s.isEmpty_iff.trans hocc⟩
  rcases h with h | h <;> omega

end Sys2Proof.Machine

/-! PROOF. The contents as the bytes of a circular span of slots (rules R24 and R31). -/

namespace Sys2Proof.Machine

/-! ### Spans of slots -/

/-- The bytes of `len` slots from slot `f` on, round a storage of `n` slots. -/
def Memory.span (m : Memory) (n f : Int) (len : Nat) : List Byte :=
  (List.range len).map fun (k : Nat) => m.read ((f + k) % n).toNat

theorem State.contents_eq_span (s : State) : s.contents = s.storage.span s.cap s.front s.occ.toNat := by
  simp [State.contents, State.slot, Memory.span, ← List.map_eq_flatMap]

section
variable (m : Memory) (n f : Int) (len : Nat)

@[simp] theorem Memory.span_zero : m.span n f 0 = [] := rfl

@[simp] theorem Memory.span_length : (m.span n f len).length = len := by simp [Memory.span]

theorem Memory.span_getElem? {k : Nat} (h : k < len) :
    (m.span n f len)[k]? = some (m.read ((f + k) % n).toNat) := by
  simp [Memory.span, h]

/-- The start of a span counts modulo the number of slots. -/
@[simp] theorem Memory.span_emod_start : m.span n (f % n) len = m.span n f len := by
  simp [Memory.span]

theorem Memory.span_succ :
    m.span n f (len + 1) = m.span n f len ++ [m.read ((f + len) % n).toNat] := by
  simp [Memory.span, List.range_succ]

theorem Memory.span_succ_tail : (m.span n f (len + 1)).tail = m.span n (f + 1) len := by
  simp [Memory.span, List.range_succ_eq_map, add_assoc, add_comm (1 : Int)]

end

/-- A slot one turn or less after another is another slot. -/
theorem emod_ne_of_lt {n i j : Int} (h : i < j) (h' : j < i + n) : i % n ≠ j % n := by
  intro hij
  have hdvd : n ∣ j - i := Int.dvd_of_emod_eq_zero (Int.emod_eq_emod_iff_emod_sub_eq_zero.1 hij.symm)
  have := Int.le_of_dvd (by omega) hdvd
  omega

/-- Writing the slot after a span appends the byte, when the span leaves that slot free. -/
theorem Memory.span_write_end {m : Memory} (hm : m.wf) {n f : Int} {len : Nat} (h : (len : Int) < n) (b : Byte) :
    (m.write ((f + len) % n).toNat b).span n f (len + 1) = m.span n f len ++ [b] := by
  rw [Memory.span_succ, Memory.read_write_same hm]
  congr 1
  refine List.map_congr_left fun k hk => ?_
  have hk : k < len := List.mem_range.1 hk
  have hne : (f + k) % n ≠ (f + len) % n := emod_ne_of_lt (by omega) (by omega)
  have hslot := Int.emod_nonneg (f + k) (show n ≠ 0 by omega)
  have hend := Int.emod_nonneg (f + len) (show n ≠ 0 by omega)
  exact Memory.read_write_other m b (by omega)

/-! ### The contents -/

theorem State.contents_length {s : State} (h : s.cursorsLegal) : (s.contents.length : Int) = s.occ := by
  rw [State.contents_eq_span, Memory.span_length, Int.toNat_of_nonneg (State.occ_nonneg h)]

theorem State.isFull_iff_length {s : State} (h : s.cursorsLegal) :
    s.isFull = true ↔ s.contents.length = s.cfg.capacity := by
  rw [State.isFull_iff_occ h, ← State.contents_length h, Nat.cast_inj]

theorem State.contents_getElem? {s : State} {k : Nat} (h : (k : Int) < s.occ) :
    s.contents[k]? = some (s.storage.read ((s.front + k) % s.cap).toNat) := by
  rw [State.contents_eq_span, Memory.span_getElem? (h := by omega)]

theorem State.contents_eq_nil_iff {s : State} (h : s.cursorsLegal) : s.contents = [] ↔ s.front = -1 := by
  rw [State.front_eq_sentinel_iff_occ h, ← State.contents_length h, ← List.length_eq_zero_iff, Int.natCast_eq_zero]

/-- `end` is the last slot of the span (rule R24). -/
theorem State.endCursor_eq_emod {s : State} (h : s.cursorsLegal) (hf : s.front ≠ -1) :
    s.endCursor = (s.front + (s.occ - 1)) % s.cap := by
  have hpos := State.occ_pos h hf
  have hle := State.occ_le_cap h
  rcases State.occ_cases h with h | h | h
  · exact absurd h.1 hf
  all_goals rw [emod_eq_ite_sub (by omega) (by omega)]; split_ifs <;> omega

theorem State.contents_head? {s : State} (h : s.cursorsLegal) (hf : s.front ≠ -1) :
    s.contents.head? = some (s.slot s.front) := by
  have hpos := State.occ_pos h hf
  obtain ⟨⟨hfront, hfront'⟩, -⟩ := State.cursors_range h hf
  have hslot : s.front % s.cap = s.front := Int.emod_eq_of_lt hfront hfront'
  rw [List.head?_eq_getElem?, State.contents_getElem? (by omega)]
  simp [State.slot, hslot]

theorem State.contents_getLast? {s : State} (h : s.cursorsLegal) (hf : s.front ≠ -1) :
    s.contents.getLast? = some (s.slot s.endCursor) := by
  have hpos := State.occ_pos h hf
  have hlen := State.contents_length h
  have hlast : ((s.contents.length - 1 : Nat) : Int) = s.occ - 1 := by omega
  rw [List.getLast?_eq_getElem?, State.contents_getElem? (by omega), hlast,
    ← State.endCursor_eq_emod h hf, State.slot]

/-- Rule R24: the places of the span, counted from `front`, are the slots between the cursors. -/
theorem State.occupied_iff {s : State} (h : s.cursorsLegal) (i : Nat) :
    s.occupied i ↔ ∃ k : Nat, (k : Int) < s.occ ∧ (i : Int) = (s.front + k) % s.cap := by
  have hle := State.occ_le_cap h
  constructor
  · rintro ⟨hi, hf, hspan⟩
    have hi : (i : Int) < s.cap := by exact_mod_cast hi
    refine ⟨(if s.front ≤ i then i - s.front else i - s.front + s.cap).toNat, ?_⟩
    rcases State.occ_cases h with h | h | h
    · exact absurd h.1 hf
    all_goals
      rw [emod_eq_ite_sub (by omega) (by split_ifs <;> omega)]
      split_ifs at hspan ⊢ <;> omega
  · rintro ⟨k, hk, hik⟩
    rcases State.occ_cases h with h | h | h
    · omega
    all_goals
      rw [emod_eq_ite_sub (by omega) (by omega)] at hik
      have hi : (i : Int) < s.cap := by split_ifs at hik <;> omega
      refine ⟨by exact_mod_cast hi, by omega, ?_⟩
      split_ifs at hik ⊢ <;> omega

/-- Settles O31: the length, the elements, the places of the span, and its two ends. -/
theorem contentsAreTheOccupiedSpan : Obligations.ContentsAreTheOccupiedSpan := fun _ h =>
  ⟨State.contents_length h, fun _ hk => State.contents_getElem? hk, State.occupied_iff h,
    fun hf => ⟨State.contents_head? h hf, State.contents_getLast? h hf⟩⟩

end Sys2Proof.Machine

/-! PROOF. The shared operations as functions of the contents alone (rules R101, R111 and R131). -/

namespace Sys2Proof.Machine

/-- The contents, from a start counted modulo CAPACITY and the occupancy. -/
theorem State.contents_of_front_occ {s : State} {f : Int} {len : Nat} (hf : s.front = f % s.cap)
    (ho : s.occ = len) : s.contents = s.storage.span s.cap f len := by
  rw [State.contents_eq_span, hf, ho, Int.toNat_natCast, Memory.span_emod_start]

theorem State.contents_of_sentinel {s : State} (hf : s.front = -1) : s.contents = [] := by
  simp [State.contents, State.occ, hf]

theorem flushQueue_contents (s : State) : (flushQueue s).contents = [] :=
  State.contents_of_sentinel (flushQueue_front s)

theorem resetBlock_contents (s : State) : (resetBlock s).contents = [] :=
  State.contents_of_sentinel (resetBlock_front s)

/-- Rule R101: an ENQ adds a byte, and a full queue keeps its occupancy. -/
theorem enqueue_occ (b : Byte) {s : State} (h : s.cursorsLegal) :
    (enqueue b s).occ = if s.occ = s.cap then s.occ else s.occ + 1 := by
  have hcap := s.cap_pos
  have hcap' : (enqueue b s).cap = s.cap := rfl
  have hfull := State.isFull_iff_occ h
  have hbefore := State.occ_cases h
  have hafter := State.occ_cases (enqueue_legal b h)
  rcases enqueue_cases b h with ⟨hempty, -, hf, he⟩ | ⟨-, hroom, hf, he⟩ | ⟨-, hroom, hf, he⟩
  · split_ifs <;> omega
  all_goals
    simp only [hroom, Bool.false_eq_true, false_iff, true_iff] at hfull
    simp only [adv] at hf he
    split_ifs at hf he ⊢ <;> omega

/-- The slot that an ENQ writes is the one after the span (rules R26 and R100). -/
theorem State.adv_endCursor {s : State} (h : s.cursorsLegal) (hf : s.front ≠ -1) :
    adv s.cap s.endCursor = (s.front + s.occ) % s.cap := by
  obtain ⟨-, hend, hend'⟩ := State.cursors_range h hf
  rw [adv_eq_emod s.cap_pos (by omega) hend']
  conv_lhs => rw [State.endCursor_eq_emod h hf]
  rw [Int.emod_add_emod]
  congr 1
  omega

/-- An ENQ appends its byte to the span of the bytes that it keeps. -/
theorem enqueue_contents_of_kept {b : Byte} {s : State} {f : Int} {len : Nat} (hwf : s.storage.wf)
    (hf : (enqueue b s).front = f % s.cap) (ho : (enqueue b s).occ = len + 1) (hlt : (len : Int) < s.cap)
    (hslot : adv s.cap s.endCursor = (f + len) % s.cap) :
    (enqueue b s).contents = s.storage.span s.cap f len ++ [b] := by
  calc (enqueue b s).contents
      = (enqueue b s).storage.span s.cap f (len + 1) :=
        State.contents_of_front_occ hf (by rw [ho]; push_cast; rfl)
    _ = s.storage.span s.cap f len ++ [b] := by
        rw [enqueue_storage, hslot, Memory.span_write_end hwf hlt]

/-- Rule R101. From empty an ENQ keeps nothing, with room the whole span, and when full all but its first slot. -/
theorem enqueue_contents (b : Byte) {s : State} (hwf : s.storage.wf) (h : s.cursorsLegal) :
    (enqueue b s).contents = pushBounded s.cfg.capacity s.contents b := by
  have hcap := s.cap_pos
  have hocc := enqueue_occ b h
  have hfull := State.isFull_iff_occ h
  have hle := State.occ_le_cap h
  have hcases := State.occ_cases h
  rcases enqueue_cases b h with ⟨hempty, he, hf', he'⟩ | ⟨hf, hroom, hf', -⟩ | ⟨hf, hroom, hf', -⟩
  · have hkept := enqueue_contents_of_kept (b := b) (f := 0) (len := 0) hwf (by simp [hf'])
      (by split_ifs at hocc <;> omega) (by omega) (by simpa using he')
    simpa [pushBounded, State.contents_of_sentinel hempty] using hkept
  · have hne : s.occ ≠ s.cap := by simp [← hfull, hroom]
    have hlen : s.contents.length ≠ s.cfg.capacity := by simp [← State.isFull_iff_length h, hroom]
    have hslot := State.adv_endCursor h (by omega)
    rw [pushBounded, if_neg hlen, s.contents_eq_span]
    refine enqueue_contents_of_kept hwf ?_ ?_ ?_ ?_
    · rw [hf', Int.emod_eq_of_lt hf (by omega)]
    · split_ifs at hocc <;> omega
    · omega
    · rw [hslot]; congr 2; omega
  · have hocc_cap := hfull.1 hroom
    have hslot := State.adv_endCursor h (by omega)
    obtain ⟨len, hocc_len⟩ : ∃ len : Nat, s.occ = (len + 1 : Nat) := ⟨s.occ.toNat - 1, by omega⟩
    rw [pushBounded, if_pos ((State.isFull_iff_length h).1 hroom), s.contents_eq_span, hocc_len,
      Int.toNat_natCast, Memory.span_succ_tail]
    refine enqueue_contents_of_kept hwf ?_ ?_ ?_ ?_
    · rw [hf', adv_eq_emod hcap (by omega) (by omega)]
    · rw [hocc, if_pos hocc_cap, hocc_len]; push_cast; rfl
    · omega
    · rw [hslot, hocc_len]; congr 1; push_cast; omega

/-- Rule R111: a DEQ of a queue that is not empty removes one byte. -/
theorem dequeue_occ {s : State} (h : s.cursorsLegal) (hf : s.front ≠ -1) : (dequeue s).occ = s.occ - 1 := by
  have hcap' : (dequeue s).cap = s.cap := by simp [State.cap]
  have hbefore := State.occ_cases h
  have hafter := State.occ_cases (dequeue_legal h)
  rcases dequeue_cases s with ⟨hempty, -⟩ | ⟨-, heq, hf', he'⟩ | ⟨-, hne, hf', he'⟩
  · exact absurd hempty hf
  · omega
  · simp only [adv] at hf'
    split_ifs at hf' <;> omega

/-- Rule R111: DEQ removes the oldest byte. -/
theorem dequeue_contents {s : State} (h : s.cursorsLegal) : (dequeue s).contents = s.contents.tail := by
  rcases dequeue_cases s with ⟨hf, heq⟩ | ⟨hf, heq, hf', -⟩ | ⟨hf, hne, hf', -⟩
  · rw [heq, State.contents_of_sentinel hf]; rfl
  · have hone : s.contents.length = 1 := by
      have := State.contents_length h
      rcases State.occ_cases h with h | h | h <;> omega
    obtain ⟨x, hx⟩ := List.length_eq_one_iff.1 hone
    rw [State.contents_of_sentinel hf', hx, List.tail]
  · have hocc := dequeue_occ h hf
    have hpos := State.occ_pos h hf
    have hcap' : (dequeue s).cap = s.cap := by simp [State.cap]
    obtain ⟨len, hlen⟩ : ∃ len : Nat, s.occ = (len + 1 : Nat) := ⟨s.occ.toNat - 1, by omega⟩
    have hfront : (dequeue s).front = (s.front + 1) % (dequeue s).cap := by
      rw [hf', hcap', adv_eq_emod s.cap_pos] <;> rcases h with h | h <;> omega
    rw [State.contents_of_front_occ (len := len) hfront (by omega), State.contents_eq_span, hlen,
      Int.toNat_natCast, Memory.span_succ_tail, dequeue_storage, hcap']

/-- Rule R110: a DEQ of more than one byte moves `front` alone. -/
theorem dequeue_cursors_of_two_le {s : State} (h : s.cursorsLegal) (htwo : 2 ≤ s.occ) :
    (dequeue s).front = (s.front + 1) % s.cap ∧ (dequeue s).endCursor = s.endCursor := by
  have hcases := State.occ_cases h
  rcases dequeue_cases s with ⟨hempty, -⟩ | ⟨-, hone, -⟩ | ⟨-, -, hf, he⟩
  · omega
  · omega
  · exact ⟨by rw [hf, adv_eq_emod s.cap_pos] <;> omega, he⟩

end Sys2Proof.Machine

/-! PROOF. The invariant of every run and the writers of each field (rules R23, R36, R37, R40 and R50). -/

namespace Sys2Proof.Machine

/-! ### The invariant under each operation -/

theorem State.Inv.wf {s : State} (h : s.Inv) : s.storage.wf := h.1

theorem State.Inv.ready {s : State} (h : s.Inv) (hr : s.resetSeen = true) : s.Ready := by
  obtain ⟨-, -, hlegal⟩ := h
  exact ⟨hr, hlegal hr⟩

theorem State.Ready.resetSeen {s : State} (h : s.Ready) : s.resetSeen = true := h.1

theorem State.Ready.legal {s : State} (h : s.Ready) : s.cursorsLegal := h.2

/-- The invariant speaks of the block alone. -/
theorem State.SameBlock.inv {s t : State} (h : s.SameBlock t) (hs : s.Inv) : t.Inv := by
  obtain ⟨hcfg, hstorage, hfront, hend, hreset⟩ := h
  simpa only [State.Inv, State.cursorsLegal, State.cap, hcfg, hstorage, hfront, hend, hreset] using hs

theorem State.SameBlock.ready {s t : State} (h : s.SameBlock t) (hs : s.Ready) : t.Ready := by
  obtain ⟨hcfg, -, hfront, hend, hreset⟩ := h
  simpa only [State.Ready, State.cursorsLegal, State.cap, hcfg, hfront, hend, hreset] using hs

theorem State.SameBlock.cfg {s t : State} (h : s.SameBlock t) : t.cfg = s.cfg := h.1

theorem State.SameBlock.occ {s t : State} (h : s.SameBlock t) : t.occ = s.occ := by
  obtain ⟨hcfg, -, hfront, hend, -⟩ := h
  simp only [State.occ, State.cap, hcfg, hfront, hend]

theorem State.SameBlock.contents {s t : State} (h : s.SameBlock t) : t.contents = s.contents := by
  have hocc := h.occ
  obtain ⟨hcfg, hstorage, hfront, -⟩ := h
  simp only [State.contents, hocc, State.slot, State.cap, hcfg, hstorage, hfront]

theorem State.sameBlock_take (s : State) (r : Reading) : s.SameBlock (s.take r) := by simp [State.SameBlock]

theorem State.sameBlock_takeByte (s : State) (form : Byte → Status → Reading) (port : Byte) :
    s.SameBlock (s.takeByte form port) := by simp [State.SameBlock]

/-- The consumer's result is no part of the block, so its DEQ does to the block what DEQ does. -/
theorem sameBlock_takeDequeue (s : State) : (dequeue s).SameBlock (takeDequeue s) := by
  unfold takeDequeue State.takeByte dequeue
  cases hE : s.isEmpty
  · by_cases hone : s.front = s.endCursor <;> simp_all [State.isEmpty, State.take, State.SameBlock]
  · simp_all [State.isEmpty, State.SameBlock]

theorem resetBlock_inv (s : State) : (resetBlock s).Inv :=
  ⟨Memory.wf_nil, by simp, fun _ => .inl ⟨rfl, rfl⟩⟩

theorem flushQueue_inv {s : State} (h : s.Inv) : (flushQueue s).Inv :=
  have ⟨hwf, hrange, _⟩ := h
  ⟨hwf, hrange, fun _ => .inl ⟨rfl, rfl⟩⟩

theorem dequeue_inv {s : State} (h : s.Inv) : (dequeue s).Inv := by
  obtain ⟨hwf, hrange, hlegal⟩ := h
  refine ⟨?_, ?_, fun hr => dequeue_legal (hlegal ?_)⟩
  · rwa [dequeue_storage]
  · rwa [dequeue_storage, dequeue_cfg]
  · rwa [dequeue_resetSeen] at hr

/-- The slot that an ENQ writes is in the storage (rule R50). -/
theorem adv_endCursor_lt {s : State} (h : s.cursorsLegal) :
    (adv s.cap s.endCursor).toNat < s.cfg.capacity := by
  have hcap := s.cap_pos
  have hadv : 0 ≤ adv s.cap s.endCursor ∧ adv s.cap s.endCursor < s.cap :=
    adv_range (by rcases h with h | h <;> omega) (by rcases h with h | h <;> omega) hcap
  simp only [State.cap] at hadv ⊢
  omega

theorem enqueue_inv (b : Byte) {s : State} (h : s.Inv) (hr : s.resetSeen = true) : (enqueue b s).Inv := by
  obtain ⟨hwf, hrange, hlegal⟩ := h
  exact ⟨Memory.write_wf hwf _ b, Memory.write_inRange hrange (adv_endCursor_lt (hlegal hr)) b,
    fun _ => enqueue_legal b (hlegal hr)⟩

/-! ### What an instruction does to the block -/

/-- The most that an instruction but RESET does to the block, once the consumer has taken its result. -/
inductive BlockEffect : Instr → State → State → Prop
  | hold (i : Instr) (u : State) : BlockEffect i u u
  | deq (u : State) : BlockEffect .deq u (dequeue u)
  | flush (u : State) : BlockEffect .flush u (flushQueue u)
  | enq (b : Byte) (u : State) : BlockEffect (.enq b) u (enqueue b u)
  | rsvd (b : Byte) (u : State) : BlockEffect (.rsvd (some b)) u (enqueue b u)
  | enqdeq (b : Byte) (u : State) : BlockEffect (.enqdeq b) u (enqueue b (dequeue u))
  | flushenq (b : Byte) (u : State) : BlockEffect (.flushenq b) u (enqueue b (flushQueue u))

/-- A consumer's result changes nothing of the block, so each instruction is its effect on a state of the same block. -/
theorem exec_blockEffect {i : Instr} {s t : State} (h : exec i s = .next t) (hi : i ≠ .reset) :
    s.Ready ∧ ∃ u, s.SameBlock u ∧ BlockEffect i u t := by
  have hself : s.SameBlock s := ⟨rfl, rfl, rfl, rfl, rfl⟩
  have htake := s.sameBlock_take
  have htakeByte := s.sameBlock_takeByte
  rcases exec_next_cases h with ⟨hreset, -⟩ | ⟨hready, hcase⟩
  · exact absurd hreset hi
  refine ⟨hready, ?_⟩
  rcases hcase with ⟨-, ht⟩ | ⟨b, rfl, ht⟩ | ⟨rfl, ht⟩ | ⟨b, rfl, ht⟩ | ⟨rfl, ht⟩ | ⟨b, rfl, -, ht⟩ |
    ⟨-, -, ht⟩ | ⟨b, rfl, -, ht⟩ | ⟨-, ht⟩ | ⟨-, ht⟩ | ⟨-, ht⟩ | ⟨-, ht⟩ | ⟨-, ht⟩ <;> rw [ht]
  · exact ⟨s, hself, .hold _ _⟩
  · exact ⟨s, hself, .enq b s⟩
  · exact ⟨_, htakeByte _ _, .deq _⟩
  · exact ⟨_, htakeByte _ _, .enqdeq b _⟩
  · exact ⟨s, hself, .flush s⟩
  · exact ⟨s, hself, .flushenq b s⟩
  · exact ⟨s, hself, .hold _ _⟩
  · exact ⟨s, hself, .rsvd b s⟩
  · exact ⟨_, htakeByte _ _, .hold _ _⟩
  · exact ⟨_, htakeByte _ _, .hold _ _⟩
  · exact ⟨_, htake _, .hold _ _⟩
  · exact ⟨_, htake _, .hold _ _⟩
  · exact ⟨_, htake _, .hold _ _⟩

theorem BlockEffect.cfg {i : Instr} {u t : State} (h : BlockEffect i u t) : t.cfg = u.cfg := by
  cases h <;> simp

theorem BlockEffect.resetSeen {i : Instr} {u t : State} (h : BlockEffect i u t) : t.resetSeen = u.resetSeen := by
  cases h <;> simp

theorem BlockEffect.inv {i : Instr} {u t : State} (h : BlockEffect i u t) (hu : u.Inv)
    (hr : u.resetSeen = true) : t.Inv := by
  cases h with
  | hold => exact hu
  | deq => exact dequeue_inv hu
  | flush => exact flushQueue_inv hu
  | enq b | rsvd b => exact enqueue_inv b hu hr
  | enqdeq b => exact enqueue_inv b (dequeue_inv hu) (by rwa [dequeue_resetSeen])
  | flushenq b => exact enqueue_inv b (flushQueue_inv hu) hr

/-! ### Reset, and every step -/

/-- Settles O9: the fields by definition, and an empty queue is not full. -/
theorem resetGivesResetValues : Obligations.ResetGivesResetValues := by
  refine ⟨fun s => ⟨resetBlock s, rfl, rfl, rfl, fun _ => rfl, Memory.wf_nil, rfl, rfl, ⟨rfl, rfl, rfl⟩, rfl, rfl,
    ?_⟩,
    fun cfg => ⟨rfl, rfl, rfl, fun _ => rfl, rfl, rfl, ?_⟩⟩
  all_goals exact State.isFull_of_sentinel (.inl ⟨rfl, rfl⟩) rfl

/-- The state right after reset is what RESET makes of itself. -/
theorem State.resetOf_inv (cfg : Config) : (State.resetOf cfg).Inv := resetBlock_inv (State.resetOf cfg)

/-- Settles O35: `State.reset` is the reset state of one configuration. -/
theorem resetStateMeetsInvariant : Obligations.ResetStateMeetsInvariant := by
  have hreset : ∀ cfg : Config, (State.resetOf cfg).Inv ∧ (State.resetOf cfg).Ready := fun cfg =>
    ⟨State.resetOf_inv cfg, (State.resetOf_inv cfg).ready rfl⟩
  exact ⟨hreset, hreset Config.atReset⟩

/-- Rules R23, R40 and R50 for one instruction: RESET makes the invariant true, and every other keeps it. -/
theorem exec_keeps_inv {i : Instr} {s t : State} (hs : s.Inv) (h : exec i s = .next t) :
    t.Inv ∧ t.Ready ∧ t.cfg = s.cfg := by
  by_cases hi : i = .reset
  · subst hi
    cases h
    exact ⟨resetBlock_inv s, (resetBlock_inv s).ready rfl, rfl⟩
  · obtain ⟨hready, u, hu, heff⟩ := exec_blockEffect h hi
    have hseen := (hu.ready hready).resetSeen
    have hinv := heff.inv (hu.inv hs) hseen
    exact ⟨hinv, hinv.ready (heff.resetSeen.trans hseen), heff.cfg.trans hu.cfg⟩

theorem State.sameBlock_nextStimulus (s : State) : s.SameBlock s.nextStimulus.2 := by
  unfold State.nextStimulus
  split <;> exact ⟨rfl, rfl, rfl, rfl, rfl⟩

/-- Settles O36: a step takes a stimulus, which is no part of the block, and runs an instruction. -/
theorem everyStepKeepsInvariant : Obligations.EveryStepKeepsInvariant := by
  intro s t hs hstep
  have hblock := s.sameBlock_nextStimulus
  obtain ⟨hinv, hready, hcfg⟩ := exec_keeps_inv (hblock.inv hs) hstep
  exact ⟨hinv, hready, hcfg.trans hblock.cfg⟩

/-! ### Writers -/

/-- The four commands that enqueue a byte (rules R100, R142, R143 and R144). -/
abbrev Enqueues (i : Instr) (b : Byte) : Prop :=
  i = .enq b ∨ i = .enqdeq b ∨ i = .flushenq b ∨ i = .rsvd (some b)

/-- An effect on the block is the holding of it, a command of the consumer, or ends with an enqueue. -/
theorem BlockEffect.writer {i : Instr} {u t : State} (h : BlockEffect i u t) :
    t = u ∨ (i = .deq ∧ t = dequeue u) ∨ (i = .flush ∧ t = flushQueue u) ∨
      ∃ b v, Enqueues i b ∧ v.storage = u.storage ∧ t = enqueue b v := by
  cases h with
  | hold => exact .inl rfl
  | deq => exact .inr (.inl ⟨rfl, rfl⟩)
  | flush => exact .inr (.inr (.inl ⟨rfl, rfl⟩))
  | enq b | rsvd b => exact .inr (.inr (.inr ⟨b, u, by simp [Enqueues], rfl, rfl⟩))
  | enqdeq b => exact .inr (.inr (.inr ⟨b, dequeue u, by simp [Enqueues], dequeue_storage u, rfl⟩))
  | flushenq b => exact .inr (.inr (.inr ⟨b, flushQueue u, by simp [Enqueues], rfl, rfl⟩))

/-- Rule R36: the slot of the new `end` is the only one that is written, and only an enqueue writes it. -/
theorem BlockEffect.storage_writer {i : Instr} {u t : State} (h : BlockEffect i u t) {a : Nat}
    (ha : t.storage.read a ≠ u.storage.read a) : a = t.endCursor.toNat ∧ ∃ b, Enqueues i b := by
  rcases h.writer with rfl | ⟨-, rfl⟩ | ⟨-, rfl⟩ | ⟨b, v, hi, hv, rfl⟩
  · exact absurd rfl ha
  · exact absurd (by rw [dequeue_storage]) ha
  · exact absurd rfl ha
  · refine ⟨?_, b, hi⟩
    by_contra hne
    rw [enqueue_storage, ← enqueue_endCursor v b, Memory.read_write_other _ b hne, hv] at ha
    exact ha rfl

/-- Rule R36: an instruction that is no writer of the cursors leaves the block as it is. -/
theorem BlockEffect.eq_or_cursor_writer {i : Instr} {u t : State} (h : BlockEffect i u t) :
    t = u ∨ i = .deq ∨ i = .flush ∨ ∃ b, Enqueues i b := by
  rcases h.writer with h | ⟨h, -⟩ | ⟨h, -⟩ | ⟨b, -, h, -⟩
  · exact .inl h
  · exact .inr (.inl h)
  · exact .inr (.inr (.inl h))
  · exact .inr (.inr (.inr ⟨b, h⟩))

/-- Rule R110: a DEQ moves `end` only by emptying the queue. -/
theorem dequeue_endCursor_ne {u : State} (h : (dequeue u).endCursor ≠ u.endCursor) :
    (dequeue u).front = -1 ∧ (dequeue u).endCursor = -1 := by
  rcases dequeue_cases u with ⟨-, heq⟩ | ⟨-, -, hf, he⟩ | ⟨-, -, -, he⟩
  · exact absurd (by rw [heq]) h
  · exact ⟨hf, he⟩
  · exact absurd he h

/-- Rule R100: an ENQ moves `front` only from empty or from full. -/
theorem enqueue_front_ne {b : Byte} {u : State} (hu : u.cursorsLegal) (h : (enqueue b u).front ≠ u.front) :
    u.front = -1 ∨ u.occ = u.cap := by
  rcases enqueue_cases b hu with ⟨hf, -⟩ | ⟨-, -, hf, -⟩ | ⟨-, hfull, -⟩
  · exact .inl hf
  · exact absurd hf h
  · exact .inr ((State.isFull_iff_occ hu).1 hfull)

theorem BlockEffect.of_deq {u t : State} (h : BlockEffect .deq u t) : t = u ∨ t = dequeue u := by
  cases h with
  | hold => exact .inl rfl
  | deq => exact .inr rfl

theorem BlockEffect.of_enq {b : Byte} {u t : State} (h : BlockEffect (.enq b) u t) : t = u ∨ t = enqueue b u := by
  cases h with
  | hold => exact .inl rfl
  | enq => exact .inr rfl

/-- Settles O39: each clause is a rule of the effect on the block, moved to the state before the consumer's result. -/
theorem onlyTheNamedWritersWrite : Obligations.OnlyTheNamedWritersWrite := by
  intro i s t hs h hi
  obtain ⟨hready, u, hu, heff⟩ := exec_blockEffect h hi
  have hlegal : u.cursorsLegal := (hu.ready hready).legal
  have hocc := hu.occ
  have hcap : u.cap = s.cap := by rw [State.cap, hu.cfg]
  obtain ⟨hcfg, hstorage, hfront, hend, hseen⟩ := hu
  rw [← hstorage, ← hfront, ← hend, ← hocc, ← hcap, ← hcfg, ← hseen]
  refine ⟨fun a => heff.storage_writer, fun hne => ?_, fun hne => ?_, ?_, ?_, heff.cfg, heff.resetSeen⟩
  · exact heff.eq_or_cursor_writer.resolve_left fun h => hne (by rw [h])
  · exact heff.eq_or_cursor_writer.resolve_left fun h => hne (by rw [h])
  · rintro rfl hne
    rcases heff.of_deq with rfl | rfl
    · exact absurd rfl hne
    · exact dequeue_endCursor_ne hne
  · rintro b rfl hne
    rcases heff.of_enq with rfl | rfl
    · exact absurd rfl hne
    · exact enqueue_front_ne hlegal hne

end Sys2Proof.Machine

/-! PROOF. States with the same contents: a relation that every instruction keeps (rules R39 and R41). -/

namespace Sys2Proof.Machine

/-! ### The outputs as functions of the contents -/

/-- Rule R120. -/
theorem State.firstData_eq_headD {s : State} (h : s.cursorsLegal) : s.firstData = s.contents.head?.getD 0x00 := by
  by_cases hf : s.front = -1
  · simp [State.firstData, s.isEmpty_iff.2 hf, State.contents_of_sentinel hf]
  · rw [State.firstData_of_nonempty hf, State.contents_head? h hf, Option.getD_some]

/-- Rule R121. -/
theorem State.lastData_eq_getLastD {s : State} (h : s.cursorsLegal) :
    s.lastData = s.contents.getLast?.getD 0x00 := by
  by_cases hf : s.front = -1
  · simp [State.lastData, s.isEmpty_iff.2 hf, State.contents_of_sentinel hf]
  · rw [State.lastData_of_nonempty hf, State.contents_getLast? h hf, Option.getD_some]

/-- Rule R78. -/
theorem State.count_toNat {s : State} : s.count.toNat = s.contents.length % 2 ^ countWidth s.cfg := by
  rw [State.count, BitVec.toNat_ofNat, State.contents_eq_span, Memory.span_length]

/-! ### The relation -/

/-- Two states that the consumer has not told apart: one configuration, the same contents, the same last reading, and
equal counters of free values (log entry 19). Storage and cursors may differ. -/
structure State.Alike (s s' : State) : Prop where
  inv : s.Inv
  ready : s.Ready
  inv' : s'.Inv
  ready' : s'.Ready
  cfg : s'.cfg = s.cfg
  contents : s'.contents = s.contents
  freeIndex : s'.freeIndex = s.freeIndex
  reading : s'.reading = s.reading

namespace State.Alike

variable {s s' : State} (h : s.Alike s')
include h

theorem front_iff : s'.front = -1 ↔ s.front = -1 := by
  rw [← State.contents_eq_nil_iff h.ready'.legal, h.contents, State.contents_eq_nil_iff h.ready.legal]

theorem isEmpty : s'.isEmpty = s.isEmpty := by
  rw [Bool.eq_iff_iff, State.isEmpty_iff, State.isEmpty_iff, h.front_iff]

theorem isFull : s'.isFull = s.isFull := by
  rw [Bool.eq_iff_iff, State.isFull_iff_length h.ready'.legal, State.isFull_iff_length h.ready.legal, h.contents, h.cfg]

theorem count : s'.count.toNat = s.count.toNat := by
  rw [State.count_toNat, State.count_toNat, h.contents, h.cfg]

theorem firstData : s'.firstData = s.firstData := by
  rw [State.firstData_eq_headD h.ready'.legal, State.firstData_eq_headD h.ready.legal, h.contents]

theorem lastData : s'.lastData = s.lastData := by
  rw [State.lastData_eq_getLastD h.ready'.legal, State.lastData_eq_getLastD h.ready.legal, h.contents]

/-! Each operation keeps the relation, since what it answers is a function of what the two states share. -/

theorem take (r : Reading) : (s.take r).Alike (s'.take r) where
  inv := h.inv
  ready := h.ready
  inv' := h.inv'
  ready' := h.ready'
  cfg := h.cfg
  contents := h.contents
  freeIndex := h.freeIndex
  reading := rfl

theorem takeByte (form : Byte → Status → Reading) (port : Byte) :
    (s.takeByte form port).Alike (s'.takeByte form port) := by
  have hblock := s.sameBlock_takeByte form port
  have hblock' := s'.sameBlock_takeByte form port
  refine ⟨hblock.inv h.inv, hblock.ready h.ready, hblock'.inv h.inv', hblock'.ready h.ready',
    by simp [h.cfg], ?_, ?_, ?_⟩
  · rw [hblock'.contents, hblock.contents, h.contents]
  all_goals
    rcases s.takeByte_cases form port with ⟨hf, hr, hi⟩ | ⟨hf, hr, hi⟩ <;>
    rcases s'.takeByte_cases form port with ⟨hf', hr', hi'⟩ | ⟨hf', hr', hi'⟩
    · simp only [hr, hi, hr', hi', h.freeIndex]
    · exact absurd (h.front_iff.2 hf) hf'
    · exact absurd (h.front_iff.1 hf') hf
    · simp only [hr, hi, hr', hi', h.freeIndex]

theorem dequeue : (dequeue s).Alike (dequeue s') where
  inv := dequeue_inv h.inv
  ready := (dequeue_inv h.inv).ready (by simp [h.ready.resetSeen])
  inv' := dequeue_inv h.inv'
  ready' := (dequeue_inv h.inv').ready (by simp [h.ready'.resetSeen])
  cfg := by simp [h.cfg]
  contents := by rw [dequeue_contents h.ready'.legal, dequeue_contents h.ready.legal, h.contents]
  freeIndex := by simp [h.freeIndex]
  reading := by simp [h.reading]

theorem enqueue (b : Byte) : (enqueue b s).Alike (enqueue b s') where
  inv := enqueue_inv b h.inv h.ready.resetSeen
  ready := (enqueue_inv b h.inv h.ready.resetSeen).ready h.ready.resetSeen
  inv' := enqueue_inv b h.inv' h.ready'.resetSeen
  ready' := (enqueue_inv b h.inv' h.ready'.resetSeen).ready h.ready'.resetSeen
  cfg := h.cfg
  contents := by
    rw [enqueue_contents b h.inv'.wf h.ready'.legal, enqueue_contents b h.inv.wf h.ready.legal, h.contents, h.cfg]
  freeIndex := h.freeIndex
  reading := h.reading

theorem flushQueue : (flushQueue s).Alike (flushQueue s') where
  inv := flushQueue_inv h.inv
  ready := (flushQueue_inv h.inv).ready h.ready.resetSeen
  inv' := flushQueue_inv h.inv'
  ready' := (flushQueue_inv h.inv').ready h.ready'.resetSeen
  cfg := h.cfg
  contents := by rw [flushQueue_contents, flushQueue_contents]
  freeIndex := h.freeIndex
  reading := h.reading

theorem resetBlock : (resetBlock s).Alike (resetBlock s') where
  inv := resetBlock_inv s
  ready := (resetBlock_inv s).ready rfl
  inv' := resetBlock_inv s'
  ready' := (resetBlock_inv s').ready rfl
  cfg := h.cfg
  contents := by rw [resetBlock_contents, resetBlock_contents]
  freeIndex := h.freeIndex
  reading := h.reading

theorem takeDequeue : (takeDequeue s).Alike (takeDequeue s') := by
  rw [Machine.takeDequeue, Machine.takeDequeue, h.firstData]
  exact (h.takeByte _ _).dequeue

/-- A command that is checked alike in both states. -/
theorem whenReady {t t' : State} (ht : t.Alike t') :
    ∃ u u', Machine.whenReady s (.next t) = .next u ∧ Machine.whenReady s' (.next t') = .next u' ∧ u.Alike u' :=
  ⟨t, t', whenReady_of_ready h.ready _, whenReady_of_ready h.ready' _, ht⟩

/-- A command that breaks the environment contract, in two blocks that run it (log entry 2). -/
theorem whenReady_underContract (hc : s.cfg.contract = .hardware) (r : Refusal) {t t' : State} (ht : t.Alike t') :
    ∃ u u', Machine.whenReady s (underContract s r (.next t)) = .next u ∧
      Machine.whenReady s' (underContract s' r (.next t')) = .next u' ∧ u.Alike u' := by
  have hc' : s'.cfg.contract = .hardware := by rw [h.cfg, hc]
  rw [underContract_eq_next.2 ⟨hc, rfl⟩, underContract_eq_next.2 ⟨hc', rfl⟩]
  exact h.whenReady ht

/-- Rule R41 as a step: every instruction runs in both states and keeps them alike. -/
theorem exec (hc : s.cfg.contract = .hardware) (i : Instr) :
    ∃ t t', exec i s = .next t ∧ exec i s' = .next t' ∧ t.Alike t' := by
  cases i with
  | reset => exact ⟨_, _, rfl, rfl, h.resetBlock⟩
  | nop => exact h.whenReady h
  | enq b => exact h.whenReady (h.enqueue b)
  | deq => exact h.whenReady h.takeDequeue
  | enqdeq b => exact h.whenReady (h.takeDequeue.enqueue b)
  | flush => exact h.whenReady h.flushQueue
  | flushenq b => exact h.whenReady_underContract hc _ (h.flushQueue.enqueue b)
  | rsvd operand =>
    cases operand with
    | none => exact h.whenReady_underContract hc _ h
    | some b => exact h.whenReady_underContract hc _ (h.enqueue b)
  | peekFirst => exact h.whenReady (h.firstData ▸ h.takeByte _ _)
  | peekLast => exact h.whenReady (h.lastData ▸ h.takeByte _ _)
  | occupancy => exact h.whenReady (h.count ▸ h.take _)
  | empty => exact h.whenReady (h.isEmpty ▸ h.take _)
  | full => exact h.whenReady (h.isFull ▸ h.take _)

end State.Alike

/-- Settles O41: the premises say that the two states are alike, every instruction keeps them so, and alike states have
the same outputs. -/
theorem onlyContentsCanBeObserved : Obligations.OnlyContentsCanBeObserved := by
  intro i s s' hinv hready hinv' hready' hc hcfg hcontents hfree hreading
  have h : s.Alike s' := ⟨hinv, hready, hinv', hready', hcfg, hcontents, hfree, hreading⟩
  obtain ⟨t, t', ht, ht', h⟩ := h.exec hc i
  exact ⟨t, t', ht, ht', h.contents, h.freeIndex, h.reading, h.isEmpty, h.isFull, h.count,
    fun _ => ⟨h.firstData, h.lastData⟩⟩

end Sys2Proof.Machine

/-! PROOF. Every non-empty queue is reached from reset (rule R40, second half): ENQ and DEQ move a queue of one
byte round the storage, and further ENQs fill the span. -/

namespace Sys2Proof.Machine

/-! ### Words and runs -/

theorem decode_portWord_enq (b : Byte) : decode (portWord 0 (some b)) = .enq b := by
  simp [decode, portWord]

theorem decode_portWord_deq : decode (portWord 1 none) = .deq := by
  simp [decode, portWord]

theorem keepsContract_portWord_enq (b : Byte) : keepsContract (portWord 0 (some b)) := by
  simp [keepsContract, portWord]

theorem keepsContract_portWord_deq : keepsContract (portWord 1 none) := by
  simp [keepsContract, portWord]

theorem run_succ_of_step {k : Nat} {s u : State} (h : step s = .next u) : run (k + 1) s = run k u := by
  have h : Sys2Proof.core.step s = .next u := h
  simp only [run, Host.Core.run, h]
  rfl

theorem step_of_run_succ {k : Nat} {s t : State} (h : run (k + 1) s = .next t) :
    ∃ u, step s = .next u ∧ run k u = .next t := by
  simp only [run, Host.Core.run] at h
  split at h
  next u hu => exact ⟨u, hu, h⟩
  all_goals cases h

/-- A run can be extended at its end. -/
theorem run_succ_of_run {k : Nat} {s t u : State} (h : run k s = .next t) (hstep : step t = .next u) :
    run (k + 1) s = .next u := by
  induction k generalizing s with
  | zero =>
    cases h
    exact run_succ_of_step hstep
  | succ k ih =>
    obtain ⟨v, hv, hrun⟩ := step_of_run_succ h
    rw [run_succ_of_step hv, ih hrun]

/-! ### Queues that runs from reset reach -/

/-- A ready state of a configuration, with these cursors and contents and these stimuli still placed. -/
structure State.Holds (s : State) (cfg : Config) (f e : Int) (c : List Byte) (rest : List Stimulus) : Prop where
  inv : s.Inv
  ready : s.Ready
  cfg : s.cfg = cfg
  front : s.front = f
  endCursor : s.endCursor = e
  contents : s.contents = c
  schedule : s.schedule = rest

/-- Words that keep the contract run from the state after reset to these cursors and contents, and leave whatever the
environment placed after them. -/
def Reaches (cfg : Config) (f e : Int) (c : List Byte) : Prop :=
  ∃ ws : List CommandWord, (∀ w ∈ ws, keepsContract w) ∧ ∀ rest, ∃ t,
    run ws.length { State.resetOf cfg with schedule := ws.map .edge ++ rest } = .next t ∧ t.Holds cfg f e c rest

/-- One more edge, given as what its command does to the cursors and the contents. -/
theorem Reaches.edge {cfg : Config} {f e f' e' : Int} {c c' : List Byte} {w : CommandWord} (h : Reaches cfg f e c)
    (hw : keepsContract w)
    (hexec : ∀ s rest, State.Holds s cfg f e c rest →
      ∃ t, exec (decode w) s = .next t ∧ t.schedule = s.schedule ∧
        t.front = f' ∧ t.endCursor = e' ∧ t.contents = c') :
    Reaches cfg f' e' c' := by
  obtain ⟨ws, hws, hrun⟩ := h
  refine ⟨ws ++ [w], by simpa [or_imp, forall_and] using ⟨hws, hw⟩, fun rest => ?_⟩
  obtain ⟨s, hs, hold⟩ := hrun (.edge w :: rest)
  have hnext : State.Holds { s with schedule := rest } cfg f e c rest := { hold with schedule := rfl }
  obtain ⟨t, ht, hsched, hf, he, hc⟩ := hexec _ rest hnext
  obtain ⟨hinv, hready, hcfg⟩ := exec_keeps_inv hnext.inv ht
  refine ⟨t, ?_, hinv, hready, hcfg.trans hold.cfg, hf, he, hc, hsched⟩
  rw [List.length_append, List.map_append, List.append_assoc]
  exact run_succ_of_run hs ((step_of_cons hold.schedule).trans ht)

theorem reaches_reset (cfg : Config) : Reaches cfg (-1) (-1) [] :=
  have hinv := State.resetOf_inv cfg
  ⟨[], by simp, fun _ => ⟨_, rfl, hinv, hinv.ready rfl, rfl, rfl, rfl, rfl, rfl⟩⟩

/-- From the empty queue an ENQ starts at slot 0. -/
theorem Reaches.enq_empty {cfg : Config} (h : Reaches cfg (-1) (-1) []) (b : Byte) : Reaches cfg 0 0 [b] := by
  refine h.edge (keepsContract_portWord_enq b) fun s rest hs => ?_
  rw [decode_portWord_enq]
  refine ⟨enqueue b s, whenReady_of_ready hs.ready _, rfl, ?_⟩
  rcases enqueue_cases b hs.ready.legal with ⟨-, -, hf, he⟩ | ⟨hf, -⟩ | ⟨hf, -⟩
  · refine ⟨hf, he, ?_⟩
    rw [enqueue_contents b hs.inv.wf hs.ready.legal, hs.contents]
    simp [pushBounded]
  all_goals
    rw [hs.front] at hf
    omega

/-- An ENQ with room appends. -/
theorem Reaches.enq {cfg : Config} {f e : Int} {c : List Byte} (h : Reaches cfg f e c) (hf : f ≠ -1)
    (hroom : c.length < cfg.capacity) (b : Byte) : Reaches cfg f ((e + 1) % cfg.capacity) (c ++ [b]) := by
  refine h.edge (keepsContract_portWord_enq b) fun s rest hs => ?_
  rw [decode_portWord_enq]
  have hlegal := hs.ready.legal
  have hne : s.contents.length ≠ s.cfg.capacity := by
    rw [hs.contents, hs.cfg]
    omega
  have hcap : s.cap = cfg.capacity := by rw [State.cap, hs.cfg]
  have hend : (enqueue b s).endCursor = (e + 1) % cfg.capacity := by
    rw [enqueue_endCursor, adv_eq_emod s.cap_pos, hs.endCursor, hcap] <;> rcases hlegal with h | h <;> omega
  refine ⟨enqueue b s, whenReady_of_ready hs.ready _, rfl, ?_, hend, ?_⟩
  · rcases enqueue_cases b hlegal with ⟨hempty, -⟩ | ⟨-, -, hf', -⟩ | ⟨-, hfull, -⟩
    · exact absurd (hs.front.symm.trans hempty) hf
    · exact hf'.trans hs.front
    · exact absurd ((State.isFull_iff_length hlegal).1 hfull) hne
  · rw [enqueue_contents b hs.inv.wf hlegal, pushBounded, if_neg hne, hs.contents]

/-- A DEQ of more than one byte moves `front` alone. -/
theorem Reaches.deq {cfg : Config} {f e : Int} {c : List Byte} (h : Reaches cfg f e c) (hlen : 2 ≤ c.length) :
    Reaches cfg ((f + 1) % cfg.capacity) e c.tail := by
  refine h.edge keepsContract_portWord_deq fun s rest hs => ?_
  rw [decode_portWord_deq]
  have hlegal := hs.ready.legal
  have htwo : 2 ≤ s.occ := by
    rw [← State.contents_length hlegal, hs.contents]
    exact_mod_cast hlen
  have hcap : s.cap = cfg.capacity := by rw [State.cap, hs.cfg]
  have hcontents : (takeDequeue s).contents = c.tail := by
    rw [(sameBlock_takeDequeue s).contents, dequeue_contents hlegal, hs.contents]
  obtain ⟨hfront, hend⟩ := dequeue_cursors_of_two_le hlegal htwo
  obtain ⟨-, -, hfront', hend', -⟩ := sameBlock_takeDequeue s
  exact ⟨takeDequeue s, whenReady_of_ready hs.ready _, by simp [takeDequeue],
    by rw [hfront', hfront, hs.front, hcap], by rw [hend', hend, hs.endCursor], hcontents⟩

/-- Rule R40 for one byte: an ENQ and a DEQ move it one slot on. -/
theorem reaches_single (cfg : Config) {f : Nat} (hf : f < cfg.capacity) (b : Byte) : Reaches cfg f f [b] := by
  induction f generalizing b with
  | zero => exact (reaches_reset cfg).enq_empty b
  | succ f ih =>
    have hnext : ((f : Int) + 1) % cfg.capacity = (f + 1 : Nat) := by
      rw [Int.emod_eq_of_lt (by omega) (by omega), Nat.cast_succ]
    have htwo := (ih (by omega) 0).enq (by omega) (by simp; omega) b
    have hone := htwo.deq (by simp)
    rwa [hnext] at hone

/-- Rule R40 for any span: from its first byte on, one ENQ for each further byte. -/
theorem reaches_span (cfg : Config) {f : Nat} (hf : f < cfg.capacity) (b : Byte) (bs : List Byte)
    (hlen : bs.length < cfg.capacity) : Reaches cfg f ((f + bs.length) % cfg.capacity) (b :: bs) := by
  induction bs using List.reverseRecOn with
  | nil =>
    have hend : ((f : Int) + ([] : List Byte).length) % cfg.capacity = f := by
      rw [List.length_nil, Nat.cast_zero, add_zero, Int.emod_eq_of_lt] <;> omega
    rw [hend]
    exact reaches_single cfg hf b
  | append_singleton bs x ih =>
    rw [List.length_append, List.length_singleton] at hlen ⊢
    have hnext := (ih (by omega)).enq (by omega) (by simpa using hlen) x
    rwa [Int.emod_add_emod, add_assoc, ← Nat.cast_succ] at hnext

/-- Settles O38: the span of `c` from slot `f` on is reached and ends at slot `e`, and no stimulus is left. -/
theorem everyLegalQueueIsReachable : Obligations.EveryLegalQueueIsReachable := by
  intro cfg f e c hf hf' he he' hlen
  have hcap := cfg.capacity_pos
  lift f to Nat using hf
  obtain ⟨b, bs, rfl⟩ : ∃ b bs, c = b :: bs := by
    apply List.exists_cons_of_length_pos
    have := Int.emod_nonneg (e - f) (show (cfg.capacity : Int) ≠ 0 by omega)
    omega
  rw [List.length_cons, Nat.cast_succ, add_left_inj] at hlen
  have hend : ((f : Int) + bs.length) % cfg.capacity = e := by
    rw [hlen, Int.add_emod_emod, add_sub_cancel, Int.emod_eq_of_lt he he']
  have hlt : bs.length < cfg.capacity := by
    have := Int.emod_lt_of_pos (e - f) (show (0 : Int) < cfg.capacity by omega)
    omega
  obtain ⟨ws, hws, hrun⟩ := reaches_span cfg (f := f) (by omega) b bs hlt
  obtain ⟨t, ht, hold⟩ := hrun []
  rw [List.append_nil] at ht
  exact ⟨ws, t, hws, ht, hold.front, hold.endCursor.trans hend, hold.contents⟩

end Sys2Proof.Machine

/-! PROOF. Reading outputs has no side effect (rule R56): a reading keeps the block, so any run of readings does. -/

namespace Sys2Proof.Machine

theorem State.SameBlock.refl (s : State) : s.SameBlock s := ⟨rfl, rfl, rfl, rfl, rfl⟩

theorem State.SameBlock.trans {s t u : State} (h : s.SameBlock t) (h' : t.SameBlock u) : s.SameBlock u := by
  obtain ⟨hcfg, hstorage, hfront, hend, hseen⟩ := h
  obtain ⟨hcfg', hstorage', hfront', hend', hseen'⟩ := h'
  exact ⟨hcfg'.trans hcfg, hstorage'.trans hstorage, hfront'.trans hfront, hend'.trans hend, hseen'.trans hseen⟩

/-- Rule R71: no output reads the fields in which two states of one block can differ. -/
theorem State.SameBlock.outputs {s t : State} (h : s.SameBlock t) : t.outputs = s.outputs := by
  obtain ⟨cfg, storage, front, endCursor, resetSeen, _, _, _⟩ := t
  obtain ⟨rfl, rfl, rfl, rfl, rfl⟩ := h
  rfl

/-- A query hands the consumer a result, which is no part of the block. -/
theorem exec_query {s : State} (h : s.Ready) (q : Query) :
    ∃ t, exec q.instr s = .next t ∧ s.SameBlock t ∧ t.schedule = s.schedule := by
  cases q with
  | peekFirst | peekLast =>
    exact ⟨_, whenReady_of_ready h _, s.sameBlock_takeByte _ _, s.takeByte_schedule _ _⟩
  | occupancy | empty | full => exact ⟨_, whenReady_of_ready h _, s.sameBlock_take _, rfl⟩

/-- A reading takes its stimulus and leaves the block as it is. -/
theorem step_of_sample {s : State} (h : s.Ready) {q : Query} {rest : List Stimulus}
    (hs : s.schedule = .sample q :: rest) : ∃ t, step s = .next t ∧ s.SameBlock t ∧ t.schedule = rest := by
  rw [step_of_cons hs]
  exact exec_query (s := { s with schedule := rest }) h q

/-- A run of readings uses them up, whatever the environment placed after them, and leaves the block as it is. -/
theorem run_of_samples (qs : List Query) (rest : List Stimulus) {s : State} (h : s.Ready)
    (hs : s.schedule = qs.map .sample ++ rest) :
    ∃ t, run qs.length s = .next t ∧ s.SameBlock t ∧ t.schedule = rest := by
  induction qs generalizing s with
  | nil => exact ⟨s, rfl, .refl s, hs⟩
  | cons q qs ih =>
    obtain ⟨u, hstep, hu, hsched⟩ := step_of_sample h hs
    obtain ⟨t, hrun, ht, hrest⟩ := ih (hu.ready h) hsched
    exact ⟨t, (run_succ_of_step hstep).trans hrun, hu.trans ht, hrest⟩

/-- Settles O26: a run of readings keeps the block, and with it the outputs. -/
theorem readingOutputsHasNoSideEffect : Obligations.ReadingOutputsHasNoSideEffect := by
  intro qs s h hs
  obtain ⟨t, hrun, ht, hsched⟩ := run_of_samples qs [] h (by rw [hs, List.append_nil])
  exact ⟨t, hrun, ht, ht.outputs, hsched⟩

end Sys2Proof.Machine

/-! PROOF. The fields of a word that its command depends on (rules R75 and R76). -/

namespace Sys2Proof.Machine

/-! ### The decoder -/

/-- Rule R76. -/
theorem decode_of_rst {w : CommandWord} (h : wordRst w = true) : decode w = .reset := if_pos h

theorem cmd_cases (c : BitVec 2) : c = 0#2 ∨ c = 1#2 ∨ c = 2#2 ∨ c = 3#2 := by
  revert c; decide

/-- Rule R75: with `enq_valid` = 0 the decoder does not look at `enq_data`. -/
theorem decode_eq_of_not_valid {w w' : CommandWord} (hrst : wordRst w = wordRst w') (hcmd : wordCmd w = wordCmd w')
    (hv : wordEnqValid w = false) (hv' : wordEnqValid w' = false) : decode w = decode w' := by
  rcases cmd_cases (wordCmd w') with h | h | h | h <;> simp [decode, hrst, hcmd, hv, hv', h]

/-- Rules R75 and R81: with `enq_valid` = 1 the command carries `enq_data`, and `cmd` says which command it is. -/
theorem decode_of_valid {w : CommandWord} (hrst : wordRst w = false) (hv : wordEnqValid w = true) :
    (wordCmd w = 0#2 ∧ decode w = .enq (wordEnqData w)) ∨
    (wordCmd w = 1#2 ∧ decode w = .enqdeq (wordEnqData w)) ∨
    (wordCmd w = 2#2 ∧ decode w = .flushenq (wordEnqData w)) ∨
    (wordCmd w = 3#2 ∧ decode w = .rsvd (some (wordEnqData w))) := by
  rcases cmd_cases (wordCmd w) with hcmd | hcmd | hcmd | hcmd <;> simp [decode, hrst, hv, hcmd]

/-- Rule R186: a word that keeps the contract enqueues by ENQ or ENQDEQ alone. -/
theorem decode_of_valid_of_keepsContract {w : CommandWord} (hrst : wordRst w = false)
    (hv : wordEnqValid w = true) (hkeeps : keepsContract w) :
    decode w = .enq (wordEnqData w) ∨ decode w = .enqdeq (wordEnqData w) := by
  obtain ⟨hrsvd, hflush⟩ := hkeeps.resolve_left (by simp [hrst])
  rcases decode_of_valid hrst hv with ⟨-, hd⟩ | ⟨-, hd⟩ | ⟨hcmd, -⟩ | ⟨hcmd, -⟩
  · exact .inl hd
  · exact .inr hd
  · exact absurd ⟨hcmd, hv⟩ hflush
  · exact absurd hcmd hrsvd

/-! ### RESET and the operand -/

/-- Settles O5: both words decode to RESET, whose effect O9 states. -/
theorem resetIgnoresEveryOtherInput : Obligations.ResetIgnoresEveryOtherInput := by
  intro w w' s hw hw'
  obtain ⟨t, ht, hfront, hend, hstorage, -, -, hcfg, hout, -⟩ := resetGivesResetValues.1 s
  rw [decode_of_rst hw, decode_of_rst hw']
  exact ⟨t, ht, ht, hfront, hend, hstorage, hcfg, hout⟩

/-- Rule R100: the slot of the new `end` holds the byte of an ENQ. -/
theorem enqueue_read_endCursor (b : Byte) {s : State} (hwf : s.storage.wf) :
    (enqueue b s).storage.read (enqueue b s).endCursor.toNat = b := by
  rw [enqueue_storage, enqueue_endCursor, Memory.read_write_same hwf]

theorem takeDequeue_storage (s : State) : (takeDequeue s).storage = s.storage := by simp [takeDequeue]

/-- Settles O6: equal commands run alike, and both commands that keep the contract end with an ENQ of the operand. -/
theorem enqDataIsReadOnlyWhenValid : Obligations.EnqDataIsReadOnlyWhenValid := by
  refine ⟨fun w w' s hrst hcmd hv hv' => by rw [decode_eq_of_not_valid hrst hcmd hv hv'],
    fun w hrst hv => ?_, fun w s hinv hready hrst hv hkeeps => ?_⟩
  · exact (decode_of_valid hrst hv).imp And.right (.imp And.right (.imp And.right And.right))
  · rcases decode_of_valid_of_keepsContract hrst hv hkeeps with hd | hd <;> rw [hd]
    · exact ⟨_, whenReady_of_ready hready _, enqueue_read_endCursor _ hinv.wf⟩
    · refine ⟨_, whenReady_of_ready hready _, enqueue_read_endCursor _ ?_⟩
      rw [takeDequeue_storage]
      exact hinv.wf

end Sys2Proof.Machine

/-! PROOF. The widths of `count` and of the cursor codes suffice (rules R6, R78 and R79). -/

namespace Sys2Proof.Machine

/-! ### `count` -/

/-- Rule R78: CNT_W bits hold every number up to CAPACITY. -/
theorem lt_two_pow_countWidth {cfg : Config} {n : Nat} (h : n ≤ cfg.capacity) : n < 2 ^ countWidth cfg :=
  (Nat.lt_succ_of_le h).trans_le (clog2_le_iff.1 le_rfl)

theorem State.contents_length_le {s : State} (h : s.cursorsLegal) : s.contents.length ≤ s.cfg.capacity := by
  have hlen := State.contents_length h
  have hle := State.occ_le_cap h
  rw [State.cap] at hle
  omega

/-- Rule R122: no bit of the occupancy is lost on `count`. -/
theorem State.count_eq_length {s : State} (h : s.cursorsLegal) : s.count.toNat = s.contents.length := by
  rw [State.count_toNat, Nat.mod_eq_of_lt (lt_two_pow_countWidth (State.contents_length_le h))]

/-- Settles O33: `count` carries the length of the contents, which is the occupancy. -/
theorem countCarriesTheOccupancy : Obligations.CountCarriesTheOccupancy := by
  refine ⟨fun cfg n hn => ?_, fun s h => ?_⟩
  · rw [BitVec.toNat_ofNat, Nat.mod_eq_of_lt (lt_two_pow_countWidth hn)]
  · rw [State.count_eq_length h]
    exact ⟨State.contents_length h, State.contents_length_le h⟩

/-! ### Cursor codes -/

/-- Rule R6: the sign bit apart, CW bits hold every slot. -/
theorem slot_lt_two_pow {cfg : Config} {i : Int} (h : i < cfg.capacity) : i < 2 ^ clog2 cfg.capacity := by
  have hcap : cfg.capacity ≤ 2 ^ clog2 cfg.capacity := clog2_le_iff.1 le_rfl
  exact h.trans_le (by exact_mod_cast hcap)

/-- Rule R79, for the sentinel and the slots alike. -/
theorem cursorOfCode_cursorCode {cfg : Config} {i : Int} (h : -1 ≤ i) (h' : i < cfg.capacity) :
    cursorOfCode cfg (cursorCode cfg i) = i := by
  have hlt := slot_lt_two_pow h'
  have hpos : (0 : Int) < 2 ^ clog2 cfg.capacity := by positivity
  have hwidth : 0 < cursorWidth cfg := Nat.succ_pos _
  have hbits : cursorWidth cfg - 1 = clog2 cfg.capacity := rfl
  exact BitVec.toInt_ofInt_eq_self hwidth (by rw [hbits]; omega) (by rwa [hbits])

/-- Rule R79: the code of -1 is all ones. -/
theorem cursorCode_sentinel (cfg : Config) : cursorCode cfg (-1) = BitVec.allOnes _ := by
  rw [cursorCode, BitVec.ofInt_neg, ← BitVec.neg_one_eq_allOnes]
  rfl

/-- Rule R79: a slot has no sign bit, so its code is its unsigned form. -/
theorem cursorCode_toNat {cfg : Config} {i : Int} (h : 0 ≤ i) (h' : i < cfg.capacity) :
    ((cursorCode cfg i).toNat : Int) = i := by
  have hlt := slot_lt_two_pow h'
  have hmod : i % 2 ^ cursorWidth cfg = i := Int.emod_eq_of_lt h (by rw [cursorWidth, pow_succ]; omega)
  rw [cursorCode, BitVec.toNat_ofInt]
  push_cast
  rw [hmod, Int.toNat_of_nonneg h]

/-- Settles O34: the round trip, the sentinel and the slots. -/
theorem cursorCodesDetermineCursors : Obligations.CursorCodesDetermineCursors := fun cfg =>
  ⟨fun _ => cursorOfCode_cursorCode, cursorCode_sentinel cfg,
    fun _ => cursorCode_toNat⟩

end Sys2Proof.Machine

/-! PROOF. The pseudo-sequences of the environment return bytes in order and lose none (rules R53, R58 and R84). -/

namespace Sys2Proof.Machine

/-! ### The edges of the sequences -/

/-- The producer's half of an edge: a byte that has arrived is enqueued (rule R140). -/
def State.accept (s : State) : Option Byte → State
  | none => s
  | some b => enqueue b s

/-- A NOP edge of the consumer. -/
theorem portStep_nop (a : Option Byte) (s : State) : portStep (portWord 0 a) s = s.accept a := by
  cases a <;> simp [portStep, portWord, State.accept]

/-- A DEQ edge of the consumer. -/
theorem portStep_deq (a : Option Byte) (s : State) : portStep (portWord 1 a) s = (dequeue s).accept a := by
  cases a <;> simp [portStep, portWord, State.accept]

theorem State.Inv.accept {s : State} (h : s.Inv) (hready : s.Ready) (a : Option Byte) :
    (s.accept a).Inv ∧ (s.accept a).Ready := by
  cases a with
  | none => exact ⟨h, hready⟩
  | some b =>
    have hinv := enqueue_inv b h hready.resetSeen
    exact ⟨hinv, hinv.ready hready.resetSeen⟩

theorem State.Inv.dequeue {s : State} (h : s.Inv) (hready : s.Ready) : (dequeue s).Inv ∧ (dequeue s).Ready :=
  have hinv := dequeue_inv h
  ⟨hinv, hinv.ready (by rw [dequeue_resetSeen, hready.resetSeen])⟩

/-- With room, an arrival evicts nothing (rule R101). -/
theorem State.accept_contents {s : State} (hinv : s.Inv) (hready : s.Ready)
    (hroom : s.contents.length < s.cfg.capacity) (a : Option Byte) :
    (s.accept a).contents = s.contents ++ a.toList := by
  cases a with
  | none => simp [State.accept]
  | some b =>
    rw [State.accept, enqueue_contents b hinv.wf hready.legal, pushBounded, if_neg hroom.ne, Option.toList_some]

theorem State.isEmpty_iff_contents {s : State} (h : s.cursorsLegal) : s.isEmpty = true ↔ s.contents = [] := by
  rw [s.isEmpty_iff, State.contents_eq_nil_iff h]

/-- Rule R111: `first_data` and what a DEQ leaves are the contents. -/
theorem State.contents_eq_firstData_cons {s : State} (h : s.cursorsLegal) (hne : s.isEmpty = false) :
    s.contents = s.firstData :: (dequeue s).contents := by
  have hf : s.front ≠ -1 := by simpa [State.isEmpty] using hne
  rw [dequeue_contents h, State.firstData_of_nonempty hf]
  exact (List.cons_head?_tail (State.contents_head? h hf)).symm

/-! ### DRAIN -/

/-- DRAIN with an edge for each byte. -/
theorem drain_of_length_le {fuel : Nat} {s : State} (hinv : s.Inv) (hready : s.Ready)
    (hfuel : s.contents.length ≤ fuel) :
    (drain fuel s).1 = s.contents ∧ (drain fuel s).2.isEmpty = true ∧ (drain fuel s).2.storage = s.storage := by
  induction fuel generalizing s with
  | zero =>
    have hnil : s.contents = [] := List.length_eq_zero_iff.1 (by omega)
    exact ⟨hnil.symm, (State.isEmpty_iff_contents hready.legal).2 hnil, rfl⟩
  | succ fuel ih =>
    cases hE : s.isEmpty with
    | true => simp [drain, hE, (State.isEmpty_iff_contents hready.legal).1 hE]
    | false =>
      have hcons := State.contents_eq_firstData_cons hready.legal hE
      obtain ⟨hinv', hready'⟩ := hinv.dequeue hready
      rw [hcons, List.length_cons] at hfuel
      obtain ⟨hbytes, hempty, hstorage⟩ := ih hinv' hready' (by omega)
      rw [dequeue_storage] at hstorage
      simp only [drain, hE, portStep_deq, State.accept, hcons]
      exact ⟨congrArg _ hbytes, hempty, hstorage⟩

/-- Settles O44: CAPACITY edges are enough, since the contents are no longer. -/
theorem drainReturnsContentsInOrder : Obligations.DrainReturnsContentsInOrder := fun _ hinv hready =>
  drain_of_length_le hinv hready (State.contents_length_le hready.legal)

/-! ### READN -/

theorem waitDeq_of_empty {s : State} (h : s.isEmpty = true) (a : Option Byte) (rest : List (Option Byte)) :
    waitDeq (a :: rest) s = waitDeq rest (s.accept a) := by
  rw [waitDeq, if_pos h, portStep_nop]

theorem waitDeq_of_nonempty {s : State} (h : s.isEmpty = false) (a : Option Byte) (rest : List (Option Byte)) :
    waitDeq (a :: rest) s = some (s.firstData, rest, (dequeue s).accept a) := by
  rw [waitDeq, if_neg (by simp [h]), portStep_deq]

theorem readN_succ_eq_some {n : Nat} {arrivals left : List (Option Byte)} {s u : State} {bs : List Byte} :
    readN (n + 1) arrivals s = some (bs, left, u) ↔
      ∃ b bs' rest t, waitDeq arrivals s = some (b, rest, t) ∧ readN n rest t = some (bs', left, u) ∧
        bs = b :: bs' := by
  constructor
  · intro h
    rw [readN] at h
    split at h
    · cases h
    next b rest t hwait =>
      split at h
      · cases h
      next bs' left' u' hread =>
        cases h
        exact ⟨b, bs', rest, t, hwait, hread, rfl⟩
  · rintro ⟨b, bs', rest, t, hwait, hread, rfl⟩
    simp only [readN, hwait, hread]

/-- Settles O45: each of the n edges finds a byte, and takes the oldest. -/
theorem readNReturnsOldestBytes : Obligations.ReadNReturnsOldestBytes := by
  intro s n hinv hready hn
  induction n generalizing s with
  | zero => exact ⟨s, rfl, rfl⟩
  | succ n ih =>
    have hE : s.isEmpty = false := by
      rw [Bool.eq_false_iff, Ne, State.isEmpty_iff_contents hready.legal]
      exact List.ne_nil_of_length_pos (by omega)
    have hcons := State.contents_eq_firstData_cons hready.legal hE
    obtain ⟨hinv', hready'⟩ := hinv.dequeue hready
    obtain ⟨t, hread, hrest⟩ := ih (dequeue s) hinv' hready' (by simpa [hcons] using hn)
    refine ⟨t, ?_, ?_⟩
    · rw [hcons, List.take_succ_cons, List.replicate_succ, readN_succ_eq_some]
      exact ⟨_, _, _, _, waitDeq_of_nonempty hE _ _, hread, rfl⟩
    · rw [hcons, List.drop_succ_cons, hrest]

/-- Edges that present `used` take the block from `s` to `t`, hand the consumer `bs`, and lose no byte: what was
there and what arrived is handed over or still there, in order. -/
structure Delivers (used : List (Option Byte)) (bs : List Byte) (s t : State) : Prop where
  inv : t.Inv
  ready : t.Ready
  bytes : bs ++ t.contents = s.contents ++ used.filterMap id

theorem Delivers.refl {s : State} (hinv : s.Inv) (hready : s.Ready) : Delivers [] [] s s :=
  ⟨hinv, hready, by simp⟩

theorem Delivers.trans {used used' : List (Option Byte)} {bs bs' : List Byte} {s t u : State}
    (h : Delivers used bs s t) (h' : Delivers used' bs' t u) : Delivers (used ++ used') (bs ++ bs') s u := by
  refine ⟨h'.inv, h'.ready, ?_⟩
  calc bs ++ bs' ++ u.contents = bs ++ t.contents ++ used'.filterMap id := by
        rw [List.append_assoc, h'.bytes, List.append_assoc]
    _ = s.contents ++ (used ++ used').filterMap id := by
        rw [h.bytes, List.filterMap_append, List.append_assoc]

theorem filterMap_id_singleton (a : Option Byte) : [a].filterMap id = a.toList := by cases a <;> rfl

/-- A waiting edge finds the queue empty, so there is room for what arrives (rule R5). -/
theorem delivers_wait {s : State} (hinv : s.Inv) (hready : s.Ready) (hE : s.isEmpty = true) (a : Option Byte) :
    Delivers [a] [] s (s.accept a) := by
  have hnil := (State.isEmpty_iff_contents hready.legal).1 hE
  have hroom : s.contents.length < s.cfg.capacity := by
    rw [hnil]
    exact s.cfg.capacity_pos
  obtain ⟨hinv', hready'⟩ := hinv.accept hready a
  exact ⟨hinv', hready', by rw [filterMap_id_singleton, State.accept_contents hinv hready hroom, List.nil_append]⟩

/-- A DEQ frees a slot before the producer's byte arrives (rule R142). -/
theorem delivers_take {s : State} (hinv : s.Inv) (hready : s.Ready) (hE : s.isEmpty = false) (a : Option Byte) :
    Delivers [a] [s.firstData] s ((dequeue s).accept a) := by
  have hcons := State.contents_eq_firstData_cons hready.legal hE
  have hroom : (dequeue s).contents.length < (dequeue s).cfg.capacity := by
    have hle := State.contents_length_le hready.legal
    rw [hcons, List.length_cons] at hle
    rw [dequeue_cfg]
    omega
  obtain ⟨hinv', hready'⟩ := hinv.dequeue hready
  obtain ⟨hinv'', hready''⟩ := hinv'.accept hready' a
  refine ⟨hinv'', hready'', ?_⟩
  rw [filterMap_id_singleton, State.accept_contents hinv' hready' hroom, hcons]
  simp

theorem waitDeq_delivers {arrivals left : List (Option Byte)} {s t : State} {b : Byte} (hinv : s.Inv)
    (hready : s.Ready) (h : waitDeq arrivals s = some (b, left, t)) :
    ∃ used, arrivals = used ++ left ∧ Delivers used [b] s t := by
  induction arrivals generalizing s with
  | nil => cases h
  | cons a rest ih =>
    cases hE : s.isEmpty with
    | true =>
      rw [waitDeq_of_empty hE] at h
      have hwait := delivers_wait hinv hready hE a
      obtain ⟨used, rfl, hrest⟩ := ih hwait.inv hwait.ready h
      exact ⟨a :: used, rfl, hwait.trans hrest⟩
    | false =>
      rw [waitDeq_of_nonempty hE] at h
      cases h
      exact ⟨[a], rfl, delivers_take hinv hready hE a⟩

theorem readN_delivers {n : Nat} {arrivals left : List (Option Byte)} {s t : State} {bs : List Byte} (hinv : s.Inv)
    (hready : s.Ready) (h : readN n arrivals s = some (bs, left, t)) :
    bs.length = n ∧ ∃ used, arrivals = used ++ left ∧ Delivers used bs s t := by
  induction n generalizing arrivals s bs with
  | zero =>
    cases h
    exact ⟨rfl, [], rfl, .refl hinv hready⟩
  | succ n ih =>
    obtain ⟨b, bs', rest, u, hwait, hread, rfl⟩ := readN_succ_eq_some.1 h
    obtain ⟨used, rfl, hfirst⟩ := waitDeq_delivers hinv hready hwait
    obtain ⟨hlen, used', rfl, hrest⟩ := ih hfirst.inv hfirst.ready hread
    exact ⟨by rw [List.length_cons, hlen], used ++ used', (List.append_assoc ..).symm, hfirst.trans hrest⟩

/-- Settles O46: no edge of READN loses a byte. -/
theorem readNLosesNothing : Obligations.ReadNLosesNothing := by
  intro n arrivals left s t bs hinv hready h
  obtain ⟨hlen, used, harrivals, hdelivers⟩ := readN_delivers hinv hready h
  exact ⟨hlen, used, harrivals, hdelivers.bytes⟩

end Sys2Proof.Machine

/-! PROOF. Trace lines read back (rule R83). -/

namespace Sys2Proof.Machine

/-! ### Byte operands -/

theorem hexValue_hexDigit {n : Nat} (h : n < 16) : hexValue (hexDigit n) = some n := by
  interval_cases n <;> rfl

theorem hexDigit_ne {n : Nat} (h : n < 16) : hexDigit n ≠ ';' ∧ hexDigit n ≠ ' ' := by
  interval_cases n <;> decide

theorem readHexByte_hexByte (b : Byte) : readHexByte (['0', 'x'] ++ hexByte b) = some b := by
  have hhigh : b.toNat / 16 < 16 := by omega
  have hlow : b.toNat % 16 < 16 := by omega
  simp [hexByte, readHexByte, hexValue_hexDigit hhigh, hexValue_hexDigit hlow, Nat.div_add_mod]

/-! ### Lines without a comment -/

/-- A line with no comment and no blank at its end. -/
abbrev BareLine (line : List Char) : Prop := ';' ∉ line ∧ line.getLast? ≠ some ' '

theorem bareLine_append_hexByte {name : List Char} (h : ';' ∉ name) (b : Byte) : BareLine (name ++ hexByte b) := by
  obtain ⟨hhigh, -⟩ := hexDigit_ne (n := b.toNat / 16) (by omega)
  obtain ⟨hlow, hblank⟩ := hexDigit_ne (n := b.toNat % 16) (by omega)
  simp [BareLine, hexByte, h, hhigh.symm, hlow.symm, hblank]

theorem traceLine_bare {i : Instr} {line : List Char} (h : traceLine i = some line) : BareLine line := by
  cases i with
  | reset | nop | deq | flush => cases h; decide
  | enq b | enqdeq b | flushenq b => cases h; exact bareLine_append_hexByte (by decide) b
  | rsvd operand =>
    cases operand with
    | none => cases h; decide
    | some b => cases h
  | peekFirst | peekLast | occupancy | empty | full => cases h

/-- Blanks and a comment behind a line are stripped. -/
theorem stripComment_append {line rest : List Char} (h : BareLine line)
    (hrest : ∀ c ∈ rest.takeWhile (· != ';'), c = ' ') : stripComment (line ++ rest) = line := by
  obtain ⟨hcomment, hblank⟩ := h
  have hend : line.reverse.dropWhile (· == ' ') = line.reverse := by
    cases hline : line.reverse with
    | nil => rfl
    | cons c cs =>
      rw [← List.head?_reverse, hline, List.head?_cons] at hblank
      exact List.dropWhile_cons_of_neg (by simpa using hblank)
  rw [stripComment, List.takeWhile_append_of_pos fun c hc => by simpa using ne_of_mem_of_not_mem hc hcomment,
    List.reverse_append, List.dropWhile_append_of_pos fun c hc => by simpa using hrest c (List.mem_reverse.1 hc),
    hend, List.reverse_reverse]

theorem stripComment_of_bare {line : List Char} (h : BareLine line) : stripComment line = line := by
  simpa using stripComment_append (rest := []) h (by simp)

theorem stripComment_append_comment {line : List Char} (h : BareLine line) (comment : List Char) :
    stripComment (line ++ [' ', ';'] ++ comment) = line := by
  rw [List.append_assoc]
  exact stripComment_append h (by simp)

/-! ### Reading back -/

/-- Rule R83: reading looks only at what is left of a line once it is stripped. -/
theorem readLine_of_stripped {i : Instr} {line text : List Char} (h : traceLine i = some text)
    (hstrip : stripComment line = text) : readLine line = some i := by
  cases i with
  | reset | nop | deq | flush => cases h; rw [readLine, hstrip]; rfl
  | enq b | enqdeq b | flushenq b =>
    cases h
    rw [readLine, hstrip]
    exact congrArg (Option.map _) (readHexByte_hexByte b)
  | rsvd operand =>
    cases operand with
    | none => cases h; rw [readLine, hstrip]; rfl
    | some b => cases h
  | peekFirst | peekLast | occupancy | empty | full => cases h

/-- Settles O48: a trace line is bare, so both lines are stripped to it. -/
theorem traceLinesReadBack : Obligations.TraceLinesReadBack := by
  intro i line comment h
  have hbare := traceLine_bare h
  have hread : readLine line = some i := readLine_of_stripped h (stripComment_of_bare hbare)
  refine ⟨hread, readLine_of_stripped h (stripComment_append_comment hbare comment), ?_⟩
  rw [assembleLine, hread, Option.bind_some]

end Sys2Proof.Machine

/-! PROOF. ENQ (rules R100-R102): its cursors and slots, what it does to the contents, and a run of it from reset. -/

namespace Sys2Proof.Machine

theorem exec_enq_of_ready (b : Byte) {s : State} (h : s.Ready) : exec (.enq b) s = .next (enqueue b s) :=
  whenReady_of_ready h _

/-! ### Cursors and slots -/

/-- Rule R100: `front` moves only to drop the oldest byte of a full queue. -/
theorem enqueue_front (b : Byte) {s : State} (h : s.cursorsLegal) (hf : s.front ≠ -1) :
    (enqueue b s).front = if s.occ = s.cap then (s.front + 1) % s.cap else s.front := by
  obtain ⟨⟨hfront, hfront'⟩, -⟩ := State.cursors_range h hf
  have hfull := State.isFull_iff_occ h
  rcases enqueue_cases b h with ⟨hempty, -⟩ | ⟨-, hroom, hf', -⟩ | ⟨-, hroom, hf', -⟩
  · exact absurd hempty hf
  · rw [hf', if_neg (by simp [← hfull, hroom])]
  · rw [hf', if_pos (hfull.1 hroom), adv_eq_emod s.cap_pos (by omega) hfront']

/-- Rule R100: `end` moves on by one slot, whether or not the queue is full. -/
theorem enqueue_endCursor_eq_emod (b : Byte) {s : State} (h : s.cursorsLegal) (hf : s.front ≠ -1) :
    (enqueue b s).endCursor = (s.endCursor + 1) % s.cap := by
  obtain ⟨-, hend, hend'⟩ := State.cursors_range h hf
  rw [enqueue_endCursor, adv_eq_emod s.cap_pos (by omega) hend']

/-- Rule R100: from empty both cursors go to slot 0. -/
theorem enqueue_cursors_of_sentinel (b : Byte) {s : State} (h : s.cursorsLegal) (hf : s.front = -1) :
    (enqueue b s).front = 0 ∧ (enqueue b s).endCursor = 0 := by
  rcases enqueue_cases b h with ⟨-, -, hf', he'⟩ | ⟨hfront, -⟩ | ⟨hfront, -⟩
  · exact ⟨hf', he'⟩
  all_goals omega

/-- The queue holds at least the byte just enqueued. -/
theorem enqueue_isEmpty (b : Byte) {s : State} (hwf : s.storage.wf) (h : s.cursorsLegal) :
    (enqueue b s).isEmpty = false := by
  rw [Bool.eq_false_iff, Ne, State.isEmpty_iff_contents (enqueue_legal b h), enqueue_contents b hwf h]
  simp [pushBounded]

/-- Settles O13: each cursor by its own lemma, the slots by `enqueue_read`, and the frame by definition. -/
theorem enqWritesSlotAndMovesCursors : Obligations.EnqWritesSlotAndMovesCursors := by
  intro s b hinv hready
  have hlegal := hready.legal
  refine ⟨enqueue b s, exec_enq_of_ready b hready, enqueue_cursors_of_sentinel b hlegal,
    enqueue_endCursor_eq_emod b hlegal, fun hf hroom => ?_, fun hf hfull => ?_, rfl, enqueue_read b hinv.wf,
    enqueue_isEmpty b hinv.wf hlegal, rfl, rfl, rfl, rfl, rfl⟩
  · rw [enqueue_front b hlegal hf, if_neg hroom.ne]
  · rw [enqueue_front b hlegal hf, if_pos hfull]

/-! ### Contents -/

/-- Rule R101: the bound of the contents is the bound of the occupancy. -/
theorem State.length_eq_capacity_iff_occ {s : State} (h : s.cursorsLegal) :
    s.contents.length = s.cfg.capacity ↔ s.occ = s.cap := by
  rw [← State.isFull_iff_length h, State.isFull_iff_occ h]

/-- Settles O14, by `enqueue_contents` and `enqueue_occ`. -/
theorem enqAppendsAndEvictsOldest : Obligations.EnqAppendsAndEvictsOldest := by
  intro s b hinv hready
  have hlegal := hready.legal
  refine ⟨enqueue b s, exec_enq_of_ready b hready, ?_, ?_⟩
  · rw [enqueue_contents b hinv.wf hlegal, pushBounded]
    simp only [State.length_eq_capacity_iff_occ hlegal]
  · have hle := State.occ_le_cap hlegal
    rw [enqueue_occ b hlegal]
    split_ifs <;> omega

/-! ### Outputs after an eviction -/

/-- The outputs of a block that holds these contents (rules R71, R78 and R120-R124). -/
def Outputs.ofContents (cfg : Config) (c : List Byte) : Outputs where
  firstData := c.head?.getD 0x00
  lastData := c.getLast?.getD 0x00
  empty := decide (c = [])
  full := decide (c.length = cfg.capacity)
  count := c.length

/-- Rule R41: no output depends on anything but the configuration and the contents. -/
theorem State.outputs_eq_ofContents {s : State} (h : s.cursorsLegal) :
    s.outputs = Outputs.ofContents s.cfg s.contents := by
  simp only [State.outputs, Outputs.ofContents, Outputs.mk.injEq]
  refine ⟨State.firstData_eq_headD h, State.lastData_eq_getLastD h, ?_, ?_, State.count_eq_length h⟩
  · rw [Bool.eq_iff_iff, State.isEmpty_iff_contents h, decide_eq_true_iff]
  · rw [Bool.eq_iff_iff, State.isFull_iff_length h, decide_eq_true_iff]

/-- A full queue that evicts `x` and a queue that never held it take the same byte to the same contents. -/
theorem pushBounded_evict {capacity : Nat} {x : Byte} {c : List Byte} (h : (x :: c).length = capacity) (b : Byte) :
    pushBounded capacity (x :: c) b = pushBounded capacity c b := by
  have hroom : c.length ≠ capacity := by
    rw [← h, List.length_cons]
    omega
  rw [pushBounded, if_pos h, List.tail_cons, pushBounded, if_neg hroom]

/-- Settles O15: the contents agree because the evicted byte is all that differed, and the outputs follow them. -/
theorem evictionLeavesNoTrace : Obligations.EvictionLeavesNoTrace := by
  intro s s' x b hinv hready hinv' hready' hcfg hfull hx
  have hlegal := hready.legal
  have hlegal' := hready'.legal
  have hlen := (State.length_eq_capacity_iff_occ hlegal).2 hfull
  have hcontents : (enqueue b s).contents = (enqueue b s').contents := by
    rw [enqueue_contents b hinv.wf hlegal, enqueue_contents b hinv'.wf hlegal', hcfg, hx]
    exact pushBounded_evict (hx ▸ hlen) b
  refine ⟨enqueue b s, enqueue b s', exec_enq_of_ready b hready, exec_enq_of_ready b hready', hcontents, ?_⟩
  rw [State.outputs_eq_ofContents (enqueue_legal b hlegal), State.outputs_eq_ofContents (enqueue_legal b hlegal'),
    hcontents, enqueue_cfg, enqueue_cfg, hcfg]

/-! ### A run of enqueues -/

/-- Rule R101 on the whole history `l` of enqueued bytes: the queue holds its last CAPACITY bytes before and after. -/
theorem pushBounded_rtake {capacity : Nat} (hcap : 1 ≤ capacity) (l : List Byte) (b : Byte) :
    pushBounded capacity (l.rtake capacity) b = (l ++ [b]).rtake capacity := by
  obtain ⟨n, rfl⟩ := Nat.exists_eq_add_of_le' hcap
  rw [List.rtake_concat_succ, pushBounded]
  congr 1
  simp only [List.rtake, List.length_drop, List.tail_drop]
  split_ifs
  all_goals
    congr 1
    omega

/-- An edge with an ENQ word takes its stimulus and enqueues the byte. -/
theorem step_of_enq_edge {s : State} (h : s.Ready) {b : Byte} {rest : List Stimulus}
    (hs : s.schedule = .edge (portWord 0 (some b)) :: rest) :
    step s = .next (enqueue b { s with schedule := rest }) := by
  rw [step_of_cons hs, Stimulus.instr, decode_portWord_enq]
  exact exec_enq_of_ready (s := { s with schedule := rest }) b h

/-- A run of ENQ edges extends the history, whatever the environment placed after them. -/
theorem run_of_enqs (bs : List Byte) (rest : List Stimulus) {s : State} {l : List Byte} (hinv : s.Inv)
    (hready : s.Ready) (hs : s.schedule = enqs bs ++ rest) (hl : s.contents = l.rtake s.cfg.capacity) :
    ∃ t, run bs.length s = .next t ∧ t.contents = (l ++ bs).rtake s.cfg.capacity ∧ t.schedule = rest := by
  induction bs generalizing s l with
  | nil => exact ⟨s, rfl, by rw [hl, List.append_nil], hs⟩
  | cons b bs ih =>
    have hstep := step_of_enq_edge (rest := enqs bs ++ rest) hready hs
    obtain ⟨hinv', hready', hcfg⟩ := everyStepKeepsInvariant _ _ hinv hstep
    have hpush := enqueue_contents b (s := { s with schedule := enqs bs ++ rest }) hinv.wf hready.legal
    obtain ⟨t, hrun, hcontents, hrest⟩ := ih (l := l ++ [b]) hinv' hready' rfl
      (hpush.trans (hl ▸ pushBounded_rtake s.cfg.capacity_pos l b))
    refine ⟨t, (run_succ_of_step hstep).trans hrun, ?_, hrest⟩
    rw [hcontents, hcfg, List.append_assoc, List.singleton_append]

/-- Settles O42: the history is empty at reset. -/
theorem enqueuesKeepTheLastCapacityBytes : Obligations.EnqueuesKeepTheLastCapacityBytes := by
  intro cfg bs
  have hinv : State.Inv { State.resetOf cfg with schedule := enqs bs } := State.resetOf_inv cfg
  exact run_of_enqs bs [] (l := []) hinv (hinv.ready rfl) (List.append_nil _).symm
    ((State.contents_of_sentinel rfl).trans (List.rtake_nil _).symm)

end Sys2Proof.Machine

/-! PROOF. DEQ (rules R110 and R111): the consumer's result, the cursors, what it does to the contents, and the occupancy
after a sequence of ENQs and DEQs. -/

namespace Sys2Proof.Machine

theorem exec_deq_of_ready {s : State} (h : s.Ready) : exec .deq s = .next (takeDequeue s) := whenReady_of_ready h _

/-! ### The result and the cursors -/

@[simp] theorem takeDequeue_cfg (s : State) : (takeDequeue s).cfg = s.cfg := by simp [takeDequeue]
@[simp] theorem takeDequeue_resetSeen (s : State) : (takeDequeue s).resetSeen = s.resetSeen := by simp [takeDequeue]
@[simp] theorem takeDequeue_schedule (s : State) : (takeDequeue s).schedule = s.schedule := by simp [takeDequeue]

/-- The edge removes the byte and leaves the consumer's result as the consumer took it. -/
@[simp] theorem takeDequeue_reading (s : State) :
    (takeDequeue s).reading = (s.takeByte .dequeued s.firstData).reading := dequeue_reading _
@[simp] theorem takeDequeue_freeIndex (s : State) :
    (takeDequeue s).freeIndex = (s.takeByte .dequeued s.firstData).freeIndex := dequeue_freeIndex _

@[simp] theorem takeDequeue_front (s : State) : (takeDequeue s).front = (dequeue s).front := by
  obtain ⟨-, -, hfront, -⟩ := sameBlock_takeDequeue s
  exact hfront

@[simp] theorem takeDequeue_endCursor (s : State) : (takeDequeue s).endCursor = (dequeue s).endCursor := by
  obtain ⟨-, -, -, hend, -⟩ := sameBlock_takeDequeue s
  exact hend

/-- Rule R110 and I3: from an empty queue the consumer takes some byte with `Empty`. -/
theorem takeDequeue_reading_of_sentinel {s : State} (hf : s.front = -1) :
    ∃ x, (takeDequeue s).reading = some (.dequeued x .empty) := by
  rcases s.takeByte_cases .dequeued s.firstData with ⟨-, hreading, -⟩ | ⟨hne, -⟩
  · exact ⟨_, (takeDequeue_reading s).trans hreading⟩
  · exact absurd hf hne

/-- Rule R110: otherwise it takes the byte of slot `front` with `Ok`, and no free value is drawn. -/
theorem takeDequeue_reading_of_nonempty {s : State} (hf : s.front ≠ -1) :
    (takeDequeue s).reading = some (.dequeued (s.slot s.front) .ok) ∧ (takeDequeue s).freeIndex = s.freeIndex := by
  rcases s.takeByte_cases .dequeued s.firstData with ⟨hempty, -⟩ | ⟨-, hreading, hindex⟩
  · exact absurd hempty hf
  · rw [takeDequeue_reading, takeDequeue_freeIndex, hreading, hindex, State.firstData_of_nonempty hf]
    exact ⟨rfl, rfl⟩

theorem dequeue_of_sentinel {s : State} (hf : s.front = -1) : dequeue s = s := if_pos (s.isEmpty_iff.2 hf)

/-- Rule R110: the last byte takes both cursors to the sentinel. -/
theorem dequeue_cursors_of_single {s : State} (hf : s.front ≠ -1) (hone : s.front = s.endCursor) :
    (dequeue s).front = -1 ∧ (dequeue s).endCursor = -1 := by
  rcases dequeue_cases s with ⟨hempty, -⟩ | ⟨-, -, hcursors⟩ | ⟨-, hne, -⟩
  · exact absurd hempty hf
  · exact hcursors
  · exact absurd hone hne

/-- Different cursors span at least two slots (rule R27). -/
theorem State.two_le_occ {s : State} (h : s.cursorsLegal) (hne : s.front ≠ s.endCursor) : 2 ≤ s.occ := by
  rcases State.occ_cases h with h | h | h <;> omega

/-- Settles O16: one lemma for each case of the result and of the cursors, and the frame of `takeDequeue`. -/
theorem deqReturnsOldestAndMovesFront : Obligations.DeqReturnsOldestAndMovesFront := by
  intro s hready
  refine ⟨takeDequeue s, exec_deq_of_ready hready, fun hf => ⟨takeDequeue_reading_of_sentinel hf, ?_⟩,
    takeDequeue_reading_of_nonempty, fun hf hone => ?_, fun _ hne => ?_, fun _ => by rw [takeDequeue_storage],
    takeDequeue_cfg s, takeDequeue_resetSeen s, takeDequeue_schedule s⟩
  all_goals rw [takeDequeue_front, takeDequeue_endCursor]
  · rw [dequeue_of_sentinel hf]
    exact ⟨hf, rfl⟩
  · exact dequeue_cursors_of_single hf hone
  · exact dequeue_cursors_of_two_le hready.legal (State.two_le_occ hready.legal hne)

/-! ### Contents and occupancy -/

theorem takeDequeue_contents {s : State} (h : s.cursorsLegal) : (takeDequeue s).contents = s.contents.tail :=
  (sameBlock_takeDequeue s).contents.trans (dequeue_contents h)

/-- Rule R111: the occupancy goes down by one, and not below 0. -/
theorem takeDequeue_occ {s : State} (h : s.cursorsLegal) : (takeDequeue s).occ = max (s.occ - 1) 0 := by
  rw [(sameBlock_takeDequeue s).occ]
  by_cases hf : s.front = -1
  · have hocc := (State.front_eq_sentinel_iff_occ h).1 hf
    rw [dequeue_of_sentinel hf]
    omega
  · have hpos := State.occ_pos h hf
    rw [dequeue_occ h hf]
    omega

/-- Settles O17: the byte of slot `front` is the head of the contents, and `takeDequeue` leaves their tail. -/
theorem deqRemovesHeadOfContents : Obligations.DeqRemovesHeadOfContents := by
  intro s _ hready
  have hlegal := hready.legal
  have hcontents := takeDequeue_contents hlegal
  refine ⟨takeDequeue s, exec_deq_of_ready hready, fun hnil => ⟨?_, ?_⟩, fun x rest hx => ⟨?_, ?_⟩,
    takeDequeue_occ hlegal⟩
  · exact takeDequeue_reading_of_sentinel ((State.contents_eq_nil_iff hlegal).1 hnil)
  · rw [hcontents, hnil, List.tail_nil]
  · have hf : s.front ≠ -1 := by simp [← State.contents_eq_nil_iff hlegal, hx]
    have hhead : x = s.slot s.front := by simpa [hx] using State.contents_head? hlegal hf
    rw [hhead]
    exact (takeDequeue_reading_of_nonempty hf).1
  · rw [hcontents, hx, List.tail_cons]

/-! ### A sequence of enqueues and successful dequeues -/

/-- A sequence answers a state exactly when its first instruction runs, is no DEQ of an empty queue, and the rest
answers that state. -/
theorem execOkDequeues_cons_eq_some {i : Instr} {rest : List Instr} {s t : State} :
    execOkDequeues (i :: rest) s = some t ↔
      ¬ (i = .deq ∧ s.isEmpty = true) ∧ ∃ u, exec i s = .next u ∧ execOkDequeues rest u = some t := by
  rw [execOkDequeues]
  by_cases hempty : i = .deq ∧ s.isEmpty = true
  · simp [hempty]
  · rw [if_neg hempty]
    cases exec i s <;> simp [hempty]

/-- With room for every ENQ to come nothing is evicted, so each ENQ adds a byte and each DEQ that returns `Ok` takes
one (rules R101 and R111, conflict C6). -/
theorem execOkDequeues_occ {cmds : List Instr} {s t : State} (hinv : s.Inv) (hready : s.Ready)
    (hcmds : ∀ i ∈ cmds, i = .deq ∨ ∃ b, i = .enq b)
    (hroom : s.occ + ((cmds.length : Int) - cmds.count .deq) ≤ s.cap) (h : execOkDequeues cmds s = some t) :
    t.occ = s.occ + cmds.length - 2 * cmds.count .deq := by
  induction cmds generalizing s with
  | nil =>
    cases h
    simp
  | cons i rest ih =>
    have hlegal := hready.legal
    obtain ⟨hi, hrest⟩ := List.forall_mem_cons.1 hcmds
    obtain ⟨hok, u, hexec, hrun⟩ := execOkDequeues_cons_eq_some.1 h
    obtain ⟨hinv', hready', hcfg⟩ := exec_keeps_inv hinv hexec
    have hcap : u.cap = s.cap := by rw [State.cap, hcfg]
    have hcount := List.count_le_length (a := Instr.deq) (l := rest)
    have hih := ih hinv' hready' hrest
    rcases hi with rfl | ⟨b, rfl⟩
    · rw [exec_deq_of_ready hready] at hexec
      cases hexec
      have hpos : 1 ≤ s.occ := State.occ_pos hlegal fun hf => hok ⟨rfl, s.isEmpty_iff.2 hf⟩
      have hocc := takeDequeue_occ hlegal
      rw [List.length_cons, List.count_cons_self] at hroom ⊢
      rw [hih (by omega) hrun]
      omega
    · rw [exec_enq_of_ready b hready] at hexec
      cases hexec
      have hocc := enqueue_occ b hlegal
      rw [List.length_cons, List.count_cons_of_ne (by simp)] at hroom ⊢
      rw [if_neg (by omega)] at hocc
      rw [hih (by omega) hrun]
      omega

/-- Settles O43: the queue is empty at reset, so the room asked for is the bound on the number of ENQs. -/
theorem occupancyIsEnqueuesLessDequeues : Obligations.OccupancyIsEnqueuesLessDequeues := by
  intro cfg cmds t hcmds hbound hrun
  have hinv := State.resetOf_inv cfg
  have hzero : (State.resetOf cfg).occ = 0 := rfl
  have hcap : (State.resetOf cfg).cap = cfg.capacity := rfl
  have hcount := List.count_le_length (a := Instr.deq) (l := cmds)
  rw [execOkDequeues_occ hinv (hinv.ready rfl) hcmds (by omega) hrun, hzero, zero_add]

end Sys2Proof.Machine

/-! PROOF. The queries (rules R120-R124): what the consumer takes from each output, and `last_data` after an enqueue. -/

namespace Sys2Proof.Machine

/-! ### The peeks -/

/-- I4: from an empty queue the consumer takes some byte with `Empty`. -/
theorem State.takeByte_reading_of_sentinel {s : State} (hf : s.front = -1) (form : Byte → Status → Reading)
    (port : Byte) : ∃ x, (s.takeByte form port).reading = some (form x .empty) := by
  rcases s.takeByte_cases form port with ⟨-, hreading, -⟩ | ⟨hne, -⟩
  · exact ⟨_, hreading⟩
  · exact absurd hf hne

/-- Rules R120 and R121: otherwise it takes the byte on the port with `Ok`, and no free value is drawn. -/
theorem State.takeByte_of_nonempty {s : State} (hf : s.front ≠ -1) (form : Byte → Status → Reading) (port : Byte) :
    (s.takeByte form port).freeIndex = s.freeIndex ∧ (s.takeByte form port).reading = some (form port .ok) := by
  rcases s.takeByte_cases form port with ⟨hempty, -⟩ | ⟨-, hreading, hindex⟩
  · exact absurd hempty hf
  · exact ⟨hindex, hreading⟩

/-- Settles O23: each peek takes the byte on its port, which shows the slot of `front` or `end`, an end of the
contents. -/
theorem peeksReturnEndsOfContents : Obligations.PeeksReturnEndsOfContents := by
  intro s hready
  have hlegal := hready.legal
  refine ⟨⟨_, whenReady_of_ready hready _, s.sameBlock_takeByte _ _, s.takeByte_schedule _ _,
      fun hf => State.takeByte_reading_of_sentinel hf _ _, fun hf => ?_⟩,
    ⟨_, whenReady_of_ready hready _, s.sameBlock_takeByte _ _, s.takeByte_schedule _ _,
      fun hf => State.takeByte_reading_of_sentinel hf _ _, fun hf => ?_⟩⟩
  · rw [State.firstData_of_nonempty hf]
    obtain ⟨hindex, hreading⟩ := State.takeByte_of_nonempty hf .first (s.slot s.front)
    exact ⟨hindex, hreading, State.contents_head? hlegal hf⟩
  · rw [State.lastData_of_nonempty hf]
    obtain ⟨hindex, hreading⟩ := State.takeByte_of_nonempty hf .last (s.slot s.endCursor)
    exact ⟨hindex, hreading, State.contents_getLast? hlegal hf⟩

/-! ### OCCUPANCY, EMPTY and FULL -/

/-- Settles O24: `count` carries the length of the contents, whose bound and whose tie to the cursors are known. -/
theorem occupancyReadsNumberOfBytes : Obligations.OccupancyReadsNumberOfBytes := by
  intro s hready
  have hlegal := hready.legal
  have hcount := State.count_eq_length hlegal
  refine ⟨_, s.count.toNat, whenReady_of_ready hready _, rfl, ?_, hcount, ?_, s.sameBlock_take _, rfl, rfl⟩
  · rw [hcount, State.contents_length hlegal]
  · rw [hcount]
    exact State.contents_length_le hlegal

/-- Settles O25: one equivalence for each condition; the two cursors are the sentinel together (rule R23). -/
theorem emptyAndFullReadTheirConditions : Obligations.EmptyAndFullReadTheirConditions := by
  intro s hready
  have hlegal := hready.legal
  obtain ⟨hsentinels, -, -⟩ := sentinelsAndZeroOccupancyAgree s hlegal
  exact ⟨⟨_, s.isEmpty, whenReady_of_ready hready _, rfl, s.isEmpty_iff, s.isEmpty_iff.trans hsentinels,
      State.isEmpty_iff_contents hlegal, s.sameBlock_take _, rfl, rfl⟩,
    ⟨_, s.isFull, whenReady_of_ready hready _, rfl, State.isFull_iff_length hlegal, s.sameBlock_take _, rfl, rfl⟩⟩

/-! ### `last_data` after an enqueue -/

/-- Rule R121: `last_data` shows the slot of the new `end`, which the ENQ has just written. -/
theorem enqueue_lastData (b : Byte) {s : State} (hwf : s.storage.wf) (h : s.cursorsLegal) :
    (enqueue b s).lastData = b := by
  have hf : (enqueue b s).front ≠ -1 := by simpa [State.isEmpty] using enqueue_isEmpty b hwf h
  rw [State.lastData_of_nonempty hf]
  exact enqueue_read_endCursor b hwf

/-- Rules R100 and R142-R144: each command that enqueues ends with an ENQ of its operand, from the state that its
consumer part leaves. -/
theorem exec_eq_enqueue {s : State} {i : Instr} {b : Byte} (hinv : s.Inv) (hready : s.Ready)
    (hc : s.cfg.contract = .hardware) (hi : i = .enq b ∨ i = .enqdeq b ∨ i = .flushenq b ∨ i = .rsvd (some b)) :
    ∃ u, exec i s = .next (enqueue b u) ∧ u.Inv ∧ u.Ready := by
  rcases hi with rfl | rfl | rfl | rfl
  · exact ⟨s, exec_enq_of_ready b hready, hinv, hready⟩
  · obtain ⟨hinv', hready'⟩ := State.Inv.dequeue hinv hready
    have hblock := sameBlock_takeDequeue s
    exact ⟨takeDequeue s, whenReady_of_ready hready _, hblock.inv hinv', hblock.ready hready'⟩
  · have hinv' := flushQueue_inv hinv
    exact ⟨flushQueue s, whenReady_eq_next.2 ⟨hready, underContract_eq_next.2 ⟨hc, rfl⟩⟩, hinv',
      hinv'.ready hready.resetSeen⟩
  · exact ⟨s, whenReady_eq_next.2 ⟨hready, underContract_eq_next.2 ⟨hc, rfl⟩⟩, hinv, hready⟩

/-- Settles O19: whatever the consumer part left, the ENQ at the end decides `last_data` and `empty`. -/
theorem lastDataIsTheEnqueuedByte : Obligations.LastDataIsTheEnqueuedByte := by
  intro s i b hinv hready hc hi
  obtain ⟨u, hexec, hinv', hready'⟩ := exec_eq_enqueue hinv hready hc hi
  exact ⟨enqueue b u, hexec, enqueue_lastData b hinv'.wf hready'.legal, enqueue_isEmpty b hinv'.wf hready'.legal⟩

end Sys2Proof.Machine

/-! PROOF. FLUSH (rules R130 and R131): the cursors, the outputs of the queue that it empties, and its contents. -/

namespace Sys2Proof.Machine

theorem exec_flush_of_ready {s : State} (h : s.Ready) : exec .flush s = .next (flushQueue s) :=
  whenReady_of_ready h _

theorem flushQueue_legal (s : State) : (flushQueue s).cursorsLegal :=
  .inl ⟨flushQueue_front s, flushQueue_endCursor s⟩

/-- Rule R130: a flushed queue shows `empty` = 1, `full` = 0 and `count` = 0, whatever it held. -/
theorem flushQueue_outputs (s : State) :
    (flushQueue s).isEmpty = true ∧ (flushQueue s).isFull = false ∧ (flushQueue s).count.toNat = 0 := by
  have hfront := flushQueue_front s
  have hlegal := flushQueue_legal s
  have hcount : (flushQueue s).count.toNat = 0 := by
    rw [State.count_eq_length hlegal, flushQueue_contents, List.length_nil]
  exact ⟨(State.isEmpty_iff _).2 hfront, State.isFull_of_sentinel hlegal hfront, hcount⟩

/-- Settles O11: FLUSH writes the two cursors alone, and `flushQueue_outputs` gives what the sentinels show. -/
theorem flushEmptiesAndKeepsStorage : Obligations.FlushEmptiesAndKeepsStorage := fun s hready =>
  ⟨flushQueue s, exec_flush_of_ready hready, flushQueue_front s, flushQueue_endCursor s,
    fun a => by rw [flushQueue_storage], flushQueue_cfg s, flushQueue_resetSeen s,
    ⟨flushQueue_schedule s, flushQueue_reading s, flushQueue_freeIndex s⟩, flushQueue_outputs s⟩

/-- Settles O12: the sentinels leave no span of slots, in any state. -/
theorem flushContentsAreEmpty : Obligations.FlushContentsAreEmpty :=
  ⟨flushQueue_contents, fun s hready => ⟨flushQueue s, exec_flush_of_ready hready, flushQueue_contents s⟩⟩

end Sys2Proof.Machine

/-! PROOF. One cycle (44_cycle.md): the command words, what each command does to the block under the hardware contract,
and the laws of the cycle on the ports and on the contents (rules R140-R145). -/

namespace Sys2Proof.Machine

/-! ### Steps and canonical words -/

/-- Settles O7: the two laws of a step, for a stimulus placed first and for none placed. -/
theorem stepRunsDecodedInstruction : Obligations.StepRunsDecodedInstruction :=
  ⟨fun _ _ _ _ hs hd _ => by rw [step_of_cons hs, Stimulus.instr, hd], fun _ _ _ => step_of_cons,
    fun _ => step_of_nil⟩

/-- Rule R73: a word is its four fields. -/
theorem packWord_fields (w : CommandWord) :
    packWord (wordRst w) (wordCmd w) (wordEnqValid w) (wordEnqData w) = w := by
  apply BitVec.eq_of_getLsbD_eq
  intro i hi
  rw [packWord_getLsbD]
  split_ifs with hdata hvalid hcmd
  · simp [wordEnqData, hdata]
  · obtain rfl : i = 8 := by omega
    simp [wordEnqValid]
  · have hwidth : i - 9 < 2 := by omega
    simp [wordCmd, hwidth, show 9 + (i - 9) = i by omega]
  · obtain rfl : i = 11 := by omega
    simp [wordRst]

/-- Clearing `enq_data` leaves the other fields. -/
theorem packWord_clear_data (w : CommandWord) :
    packWord (wordRst w) (wordCmd w) (wordEnqValid w) 0 = w &&& 0xF00 := by
  have hrst : wordRst (w &&& 0xF00) = wordRst w := by simp [wordRst]
  have hcmd : wordCmd (w &&& 0xF00) = wordCmd w := by
    rw [wordCmd, BitVec.extractLsb'_and]
    exact BitVec.and_allOnes
  have hvalid : wordEnqValid (w &&& 0xF00) = wordEnqValid w := by simp [wordEnqValid]
  have hdata : wordEnqData (w &&& 0xF00) = 0 := by
    rw [wordEnqData, BitVec.extractLsb'_and]
    exact BitVec.and_zero
  rw [← packWord_fields (w &&& 0xF00), hrst, hcmd, hvalid, hdata]

/-- With `rst` = 0 the decoder drops `enq_data` where `enq_valid` = 0 (rule R75), and no other field. -/
theorem encode_decode_of_not_rst {w : CommandWord} (h : wordRst w = false) :
    encode (decode w) = some (packWord (wordRst w) (wordCmd w) (wordEnqValid w)
      (if wordEnqValid w = true then wordEnqData w else 0)) := by
  rcases cmd_cases (wordCmd w) with hcmd | hcmd | hcmd | hcmd <;> cases hv : wordEnqValid w <;>
    simp [decode, encode, h, hcmd, hv]

/-- Settles O4: RESET has one word, and any other command keeps its fields. -/
theorem encodeDecodeGivesCanonicalWord : Obligations.EncodeDecodeGivesCanonicalWord := by
  intro w
  cases hrst : wordRst w with
  | true => rw [decode_of_rst hrst]; rfl
  | false =>
    rw [encode_decode_of_not_rst hrst, if_neg Bool.false_ne_true]
    split_ifs
    · rw [packWord_fields]
    · rw [packWord_clear_data]

/-! ### What the commands of the cycle answer -/

theorem underContract_of_hardware {s : State} (hc : s.cfg.contract = .hardware) (r : Refusal) (k : Result) :
    underContract s r k = k := by
  rw [underContract, hc]

theorem exec_nop_of_ready {s : State} (h : s.Ready) : exec .nop s = .next s := whenReady_of_ready h _

theorem exec_enqdeq_of_ready (b : Byte) {s : State} (h : s.Ready) :
    exec (.enqdeq b) s = .next (enqueue b (takeDequeue s)) := whenReady_of_ready h _

theorem exec_flushenq_of_ready (b : Byte) {s : State} (h : s.Ready) (hc : s.cfg.contract = .hardware) :
    exec (.flushenq b) s = .next (enqueue b (flushQueue s)) :=
  (whenReady_of_ready h _).trans (underContract_of_hardware hc _ _)

theorem exec_rsvd_none_of_ready {s : State} (h : s.Ready) (hc : s.cfg.contract = .hardware) :
    exec (.rsvd none) s = .next s :=
  (whenReady_of_ready h _).trans (underContract_of_hardware hc _ _)

theorem exec_rsvd_some_of_ready (b : Byte) {s : State} (h : s.Ready) (hc : s.cfg.contract = .hardware) :
    exec (.rsvd (some b)) s = .next (enqueue b s) :=
  (whenReady_of_ready h _).trans (underContract_of_hardware hc _ _)

/-- Settles O10. -/
theorem nopHoldsState : Obligations.NopHoldsState := fun _ => exec_nop_of_ready

/-- Settles O21: each form of RSVD answers what NOP or ENQ answers. -/
theorem rsvdIsNopOrEnq : Obligations.RsvdIsNopOrEnq := fun s hready hc =>
  ⟨exec_rsvd_none_of_ready hready hc,
    fun b => ⟨enqueue b s, exec_rsvd_some_of_ready b hready hc, exec_enq_of_ready b hready⟩⟩

/-! ### The block after a command -/

/-- What an instruction does to the block under the hardware contract, without the consumer's result. -/
def blockAfter (s : State) : Instr → State
  | .reset => resetBlock s
  | .nop => s
  | .enq b => enqueue b s
  | .deq => dequeue s
  | .enqdeq b => enqueue b (dequeue s)
  | .flush => flushQueue s
  | .flushenq b => enqueue b (flushQueue s)
  | .rsvd none => s
  | .rsvd (some b) => enqueue b s
  | .peekFirst => s
  | .peekLast => s
  | .occupancy => s
  | .empty => s
  | .full => s

/-- An ENQ reads the block alone. -/
theorem State.SameBlock.enqueue {s t : State} (h : s.SameBlock t) (b : Byte) :
    (enqueue b s).SameBlock (enqueue b t) := by
  obtain ⟨hcfg, hstorage, hfront, hend, hseen⟩ := h
  simp [State.SameBlock, Machine.enqueue, State.isFull, State.cap, hcfg, hstorage, hfront, hend, hseen]

/-- Every instruction runs from a ready state, and does `blockAfter` to the block (rule R145). -/
theorem exec_sameBlock_blockAfter {s : State} (hready : s.Ready) (hc : s.cfg.contract = .hardware) (i : Instr) :
    ∃ t, exec i s = .next t ∧ (blockAfter s i).SameBlock t ∧ t.schedule = s.schedule := by
  cases i with
  | reset => exact ⟨resetBlock s, rfl, .refl _, rfl⟩
  | nop => exact ⟨s, exec_nop_of_ready hready, .refl _, rfl⟩
  | enq b => exact ⟨enqueue b s, exec_enq_of_ready b hready, .refl _, rfl⟩
  | deq => exact ⟨takeDequeue s, exec_deq_of_ready hready, sameBlock_takeDequeue s, takeDequeue_schedule s⟩
  | enqdeq b =>
    exact ⟨enqueue b (takeDequeue s), exec_enqdeq_of_ready b hready, (sameBlock_takeDequeue s).enqueue b,
      takeDequeue_schedule s⟩
  | flush => exact ⟨flushQueue s, exec_flush_of_ready hready, .refl _, rfl⟩
  | flushenq b => exact ⟨enqueue b (flushQueue s), exec_flushenq_of_ready b hready hc, .refl _, rfl⟩
  | rsvd operand =>
    cases operand with
    | none => exact ⟨s, exec_rsvd_none_of_ready hready hc, .refl _, rfl⟩
    | some b => exact ⟨enqueue b s, exec_rsvd_some_of_ready b hready hc, .refl _, rfl⟩
  | peekFirst => exact exec_query hready .peekFirst
  | peekLast => exact exec_query hready .peekLast
  | occupancy => exact exec_query hready .occupancy
  | empty => exact exec_query hready .empty
  | full => exact exec_query hready .full

/-- Rules R81 and R140: the decoded command does to the block what the ports do, row by row of the opcode map. -/
theorem portStep_eq_blockAfter (w : CommandWord) (s : State) : portStep w s = blockAfter s (decode w) := by
  cases hrst : wordRst w with
  | true => simp [portStep, decode, blockAfter, hrst]
  | false =>
    rcases cmd_cases (wordCmd w) with hcmd | hcmd | hcmd | hcmd <;> cases hv : wordEnqValid w <;>
      simp [portStep, decode, blockAfter, hrst, hcmd, hv]

/-- Settles O8: the ports and the decoded command lead to the same block. -/
theorem commandsFollowPortPriority : Obligations.CommandsFollowPortPriority := by
  intro w s hready hc
  rw [portStep_eq_blockAfter]
  exact exec_sameBlock_blockAfter hready hc (decode w)

/-! ### The contents after a command -/

theorem pushBounded_of_room {capacity : Nat} {c : List Byte} (h : c.length < capacity) (b : Byte) :
    pushBounded capacity c b = c ++ [b] := by
  rw [pushBounded, if_neg h.ne]

/-- Rule R142: a DEQ leaves room, also in a queue of CAPACITY 1, so the ENQ after it evicts nothing. -/
theorem dequeue_length_lt {s : State} (h : s.cursorsLegal) : (dequeue s).contents.length < s.cfg.capacity := by
  have hle := State.contents_length_le h
  have hcap := s.cfg.capacity_pos
  rw [dequeue_contents h, List.length_tail]
  omega

theorem enqueue_dequeue_contents (b : Byte) {s : State} (hwf : s.storage.wf) (h : s.cursorsLegal) :
    (enqueue b (dequeue s)).contents = s.contents.tail ++ [b] := by
  have hroom := dequeue_length_lt h
  rw [← dequeue_cfg] at hroom
  rw [enqueue_contents b (by rwa [dequeue_storage]) (dequeue_legal h), pushBounded_of_room hroom,
    dequeue_contents h]

/-- Rule R143: a flushed queue has room, since CAPACITY is at least 1. -/
theorem enqueue_flushQueue_contents (b : Byte) {s : State} (hwf : s.storage.wf) :
    (enqueue b (flushQueue s)).contents = [b] := by
  rw [enqueue_contents b (s := flushQueue s) hwf (flushQueue_legal s), flushQueue_contents,
    pushBounded_of_room (flushQueue s).cfg.capacity_pos, List.nil_append]

/-- Rule R145 on the block: its contents follow the law on the contents alone. -/
theorem blockAfter_contents {s : State} (hinv : s.Inv) (hready : s.Ready) (i : Instr) :
    (blockAfter s i).contents = nextContents s.cfg.capacity i s.contents := by
  have hlegal := hready.legal
  cases i with
  | reset => exact resetBlock_contents s
  | enq b => exact enqueue_contents b hinv.wf hlegal
  | deq => exact dequeue_contents hlegal
  | enqdeq b => exact enqueue_dequeue_contents b hinv.wf hlegal
  | flush => exact flushQueue_contents s
  | flushenq b => exact enqueue_flushQueue_contents b hinv.wf
  | rsvd operand =>
    cases operand with
    | none => rfl
    | some b => exact enqueue_contents b hinv.wf hlegal
  | nop | peekFirst | peekLast | occupancy | empty | full => rfl

/-- Rule R111: the consumer's result is that of the contents before the edge. -/
theorem takeDequeue_reading_of_contents {s : State} (hinv : s.Inv) (hready : s.Ready) :
    (s.contents = [] → ∃ x, (takeDequeue s).reading = some (.dequeued x .empty)) ∧
    ∀ x rest, s.contents = x :: rest → (takeDequeue s).reading = some (.dequeued x .ok) := by
  obtain ⟨t, ht, hnil, hcons, -⟩ := deqRemovesHeadOfContents s hinv hready
  rw [exec_deq_of_ready hready] at ht
  cases ht
  exact ⟨fun h => (hnil h).1, fun x rest h => (hcons x rest h).1⟩

/-- Rule R142: the result of an ENQDEQ is that of the DEQ, taken before the ENQ. -/
theorem reading_eq_takeDequeue {s t : State} {i : Instr} (hready : s.Ready) (hi : i = .deq ∨ ∃ b, i = .enqdeq b)
    (h : exec i s = .next t) : t.reading = (takeDequeue s).reading := by
  rcases hi with rfl | ⟨b, rfl⟩
  · rw [exec_deq_of_ready hready] at h
    cases h
    rfl
  · rw [exec_enqdeq_of_ready b hready] at h
    cases h
    exact enqueue_reading _ b

/-- Settles O40: the contents are the block's, and the result is that of the DEQ on the state before. -/
theorem contentsFollowTheListQueue : Obligations.ContentsFollowTheListQueue := by
  intro i s hinv hready hc
  obtain ⟨t, ht, hblock, -⟩ := exec_sameBlock_blockAfter hready hc i
  refine ⟨t, ht, hblock.contents.trans (blockAfter_contents hinv hready i), fun hi => ?_⟩
  rw [reading_eq_takeDequeue hready hi ht]
  exact takeDequeue_reading_of_contents hinv hready

/-! ### ENQDEQ and FLUSHENQ -/

/-- From empty or from one byte the DEQ leaves the sentinels, so the ENQ starts at slot 0. -/
theorem enqueue_takeDequeue_cursors_of_sentinel (b : Byte) {s : State} (h : s.cursorsLegal)
    (hf : (dequeue s).front = -1) :
    (enqueue b (takeDequeue s)).front = 0 ∧ (enqueue b (takeDequeue s)).endCursor = 0 := by
  obtain ⟨-, -, hfront, hend, -⟩ := (sameBlock_takeDequeue s).enqueue b
  rw [hfront, hend]
  exact enqueue_cursors_of_sentinel b (dequeue_legal h) hf

/-- From more than one byte `front` advances by the DEQ alone, since it leaves room, and `end` by the ENQ. -/
theorem enqueue_takeDequeue_cursors_of_two_le (b : Byte) {s : State} (h : s.cursorsLegal) (htwo : 2 ≤ s.occ) :
    (enqueue b (takeDequeue s)).front = (s.front + 1) % s.cap ∧
      (enqueue b (takeDequeue s)).endCursor = (s.endCursor + 1) % s.cap := by
  have hlegal := dequeue_legal h
  have hcap : (dequeue s).cap = s.cap := by rw [State.cap, dequeue_cfg]
  obtain ⟨hf, he⟩ := dequeue_cursors_of_two_le h htwo
  have hne : (dequeue s).front ≠ -1 := by
    have hcap_pos := s.cap_pos
    have hslot := Int.emod_nonneg (s.front + 1) (show s.cap ≠ 0 by omega)
    omega
  have hroom : (dequeue s).occ ≠ (dequeue s).cap := by
    rw [Ne, ← State.length_eq_capacity_iff_occ hlegal, dequeue_cfg]
    exact (dequeue_length_lt h).ne
  obtain ⟨-, -, hfront, hend, -⟩ := (sameBlock_takeDequeue s).enqueue b
  constructor
  · rw [hfront, enqueue_front b hlegal hne, if_neg hroom, hf]
  · rw [hend, enqueue_endCursor_eq_emod b hlegal hne, he, hcap]

/-- Every slot after an ENQDEQ (rule R142). -/
theorem enqueue_takeDequeue_read (b : Byte) {s : State} (hwf : s.storage.wf) (a : Nat) :
    (enqueue b (takeDequeue s)).storage.read a =
      if a = (adv s.cap (dequeue s).endCursor).toNat then b else s.storage.read a := by
  have hcap : (takeDequeue s).cap = s.cap := by rw [State.cap, takeDequeue_cfg]
  rw [enqueue_read b (by rwa [takeDequeue_storage]), takeDequeue_storage, takeDequeue_endCursor, hcap]

/-- Settles O18: the result is that of the DEQ; the cursors are those of an ENQ after it, from the three cases of the
DEQ; the slot and the contents are those of the block. -/
theorem enqdeqDequeuesThenEnqueues : Obligations.EnqdeqDequeuesThenEnqueues := by
  intro s b hinv hready
  have hlegal := hready.legal
  have hcontents : (enqueue b (takeDequeue s)).contents = s.contents.tail ++ [b] :=
    ((sameBlock_takeDequeue s).enqueue b).contents.trans (enqueue_dequeue_contents b hinv.wf hlegal)
  refine ⟨enqueue b (takeDequeue s), exec_enqdeq_of_ready b hready, fun hf => ⟨?_, ?_⟩,
    takeDequeue_reading_of_nonempty, fun hf hone => ?_, fun _ hne => ?_, enqueue_takeDequeue_read b hinv.wf,
    hcontents, takeDequeue_cfg s, takeDequeue_resetSeen s, takeDequeue_schedule s⟩
  · exact takeDequeue_reading_of_sentinel hf
  · exact enqueue_takeDequeue_cursors_of_sentinel b hlegal (by rw [dequeue_of_sentinel hf, hf])
  · exact enqueue_takeDequeue_cursors_of_sentinel b hlegal (dequeue_cursors_of_single hf hone).1
  · exact enqueue_takeDequeue_cursors_of_two_le b hlegal (State.two_le_occ hlegal hne)

/-- Settles O20: FLUSH leaves the sentinels, so the ENQ starts at slot 0, and `end` is the slot that it wrote. -/
theorem flushenqLeavesOneByte : Obligations.FlushenqLeavesOneByte := by
  intro s b hinv hready hc
  have hwf : (flushQueue s).storage.wf := hinv.wf
  obtain ⟨hfront, hend⟩ := enqueue_cursors_of_sentinel b (flushQueue_legal s) (flushQueue_front s)
  have hzero := enqueue_read_endCursor b hwf
  rw [hend] at hzero
  exact ⟨enqueue b (flushQueue s), exec_flushenq_of_ready b hready hc, hfront, hend, enqueue_read b hwf, hzero,
    enqueue_flushQueue_contents b hinv.wf, rfl, rfl, rfl, rfl, rfl⟩

end Sys2Proof.Machine

/-! PROOF. The blocks of a system share nothing (rule R158). -/

namespace Sys2Proof.Machine

/-- Rule R158: the system's step writes the block's own next state at the block's place, and nothing else. -/
theorem stepInstance_of_next {k : Nat} {system : List State} {s t : State} (hk : system[k]? = some s)
    (ht : step s = .next t) : stepInstance k system = .next (system.set k t) := by
  simp only [stepInstance, hk, ht]

/-- Settles O47: a write at place `k` of the list is read back there, and leaves the length and every other place. -/
theorem instancesShareNothing : Obligations.InstancesShareNothing := by
  intro k system s t hk ht
  have hlt : k < system.length := (List.getElem?_eq_some_iff.mp hk).1
  exact ⟨system.set k t, stepInstance_of_next hk ht, List.length_set, List.getElem?_set_self hlt,
    fun _ hj => List.getElem?_set_ne hj.symm⟩

end Sys2Proof.Machine

/-! PROOF. Readiness and the environment contract (70_reset_and_hazards.md): which instructions the model refuses, and in
which states (rules R173, R177, R178 and R186, I6 and I7). -/

namespace Sys2Proof.Machine

/-! ### The two checks that refuse -/

theorem whenReady_of_not_resetSeen {s : State} (h : s.resetSeen = false) (k : Result) :
    whenReady s k = .refused .beforeFirstReset := by
  rw [whenReady, if_neg (Bool.eq_false_iff.mp h)]

theorem whenReady_of_not_legal {s : State} (hseen : s.resetSeen = true) (h : ¬ s.cursorsLegal) (k : Result) :
    whenReady s k = .refused .unreachableCursors := by
  rw [whenReady, if_pos hseen, if_neg h]

theorem underContract_of_enforced {s : State} (hc : s.cfg.contract = .enforced) (r : Refusal) (k : Result) :
    underContract s r k = .refused r := by
  rw [underContract, hc]

/-! ### The breaches of the contract -/

/-- The "must never" entry that an instruction breaks, as the name under which the model refuses it (rules R177 and
R178). -/
def breach : Instr → Option Refusal
  | .flushenq _ => some .flushWithEnqueue
  | .rsvd _ => some .reservedCommand
  | _ => none

/-- Rule R186: the contract on the fields of a word is the contract on the command that it decodes to. -/
theorem keepsContract_iff_breach (w : CommandWord) : keepsContract w ↔ breach (decode w) = none := by
  cases hrst : wordRst w with
  | true => simp [keepsContract, decode_of_rst hrst, hrst, breach]
  | false =>
    rcases cmd_cases (wordCmd w) with hcmd | hcmd | hcmd | hcmd <;> cases hv : wordEnqValid w <;>
      simp [keepsContract, decode, breach, hrst, hcmd, hv]

/-- An instruction that breaks no entry has one check to pass. -/
theorem exec_eq_whenReady_next {i : Instr} (hi : i ≠ .reset) (hb : breach i = none) (s : State) :
    ∃ t, exec i s = whenReady s (.next t) := by
  cases i with
  | reset => exact absurd rfl hi
  | flushenq b => cases hb
  | rsvd operand => cases hb
  | nop | enq b | deq | enqdeq b | flush | peekFirst | peekLast | occupancy | empty | full => exact ⟨_, rfl⟩

/-- A breach has the contract to pass as well, after the check for readiness. -/
theorem exec_eq_whenReady_underContract {i : Instr} {r : Refusal} (hb : breach i = some r) (s : State) :
    ∃ k, exec i s = whenReady s (underContract s r k) := by
  cases i with
  | flushenq b | rsvd operand => cases hb; exact ⟨_, rfl⟩
  | reset | nop | enq b | deq | enqdeq b | flush | peekFirst | peekLast | occupancy | empty | full => cases hb

/-- Rules R40 and R173: every instruction but RESET checks first that the state is ready. -/
theorem exec_eq_whenReady {i : Instr} (hi : i ≠ .reset) (s : State) : ∃ k, exec i s = whenReady s k := by
  cases hb : breach i with
  | none =>
    obtain ⟨t, ht⟩ := exec_eq_whenReady_next hi hb s
    exact ⟨.next t, ht⟩
  | some r =>
    obtain ⟨k, hk⟩ := exec_eq_whenReady_underContract hb s
    exact ⟨underContract s r k, hk⟩

/-! ### What runs and what is refused -/

/-- In either mode of the contract. -/
theorem exec_runs_of_no_breach {i : Instr} {s : State} (hready : s.Ready) (hb : breach i = none) :
    ∃ t, exec i s = .next t := by
  by_cases hi : i = .reset
  · exact ⟨resetBlock s, by rw [hi]; rfl⟩
  · obtain ⟨t, ht⟩ := exec_eq_whenReady_next hi hb s
    exact ⟨t, ht.trans (whenReady_of_ready hready _)⟩

theorem exec_refused_of_breach {i : Instr} {s : State} {r : Refusal} (hready : s.Ready)
    (hc : s.cfg.contract = .enforced) (hb : breach i = some r) : exec i s = .refused r := by
  obtain ⟨k, hk⟩ := exec_eq_whenReady_underContract hb s
  rw [hk, whenReady_of_ready hready, underContract_of_enforced hc]

theorem exec_runs_iff_no_breach {s : State} (hready : s.Ready) (hc : s.cfg.contract = .enforced) (i : Instr) :
    (∃ t, exec i s = .next t) ↔ breach i = none := by
  refine ⟨fun ⟨t, ht⟩ => Option.eq_none_iff_forall_ne_some.mpr fun r hb => ?_, exec_runs_of_no_breach hready⟩
  rw [exec_refused_of_breach hready hc hb] at ht
  cases ht

/-- Settles O22: a word keeps the contract when its command is no breach, and exactly the breaches are refused. -/
theorem enforcedContractRefusesItsBreaches : Obligations.EnforcedContractRefusesItsBreaches := fun _ hready hc =>
  ⟨fun w => (exec_runs_iff_no_breach hready hc (decode w)).trans (keepsContract_iff_breach w).symm,
    fun _ => exec_refused_of_breach hready hc rfl, fun _ => exec_refused_of_breach hready hc rfl⟩

/-- Settles O37: the check for readiness decides for every instruction but RESET, and RESET leaves a ready block. -/
theorem onlyResetRunsInUnreadyStates : Obligations.OnlyResetRunsInUnreadyStates := by
  refine fun s i => ⟨fun hseen hi => ?_, fun hseen hlegal hi => ?_, fun _ => ?_⟩
  · obtain ⟨k, hk⟩ := exec_eq_whenReady hi s
    exact hk.trans (whenReady_of_not_resetSeen hseen k)
  · obtain ⟨k, hk⟩ := exec_eq_whenReady hi s
    exact hk.trans (whenReady_of_not_legal hseen hlegal k)
  · exact ⟨resetBlock s, rfl, (resetBlock_inv s).ready rfl⟩

end Sys2Proof.Machine

/-! PROOF. The opcode map (rules R74, R81 and R82): encoding then decoding gives the command back, and the rows of the map
part the words among the commands. -/

namespace Sys2Proof.Machine

open Sys2Proof.Laws

/-! ### Encoding, then decoding -/

/-- Rules R74 and R81. -/
theorem encode_isSome (i : Instr) : (encode i).isSome = i.wellFormed := by
  cases i with
  | reset => exact HasWord.reset
  | nop => exact HasWord.nop
  | enq b => exact HasWord.enq b
  | deq => exact HasWord.deq
  | enqdeq b => exact HasWord.enqdeq b
  | flush => exact HasWord.flush
  | flushenq b => exact HasWord.flushenq b
  | rsvd operand => exact HasWord.rsvd operand
  | peekFirst => exact HasWord.peekFirst
  | peekLast => exact HasWord.peekLast
  | occupancy => exact HasWord.occupancy
  | empty => exact HasWord.empty
  | full => exact HasWord.full

/-- Each command is encoded by its fields, and the decoder reads them back from the packed word. -/
theorem decode_of_encode {i : Instr} {w : CommandWord} (h : encode i = some w) : decode w = i := by
  cases i with
  | reset => cases h; exact decode_of_rst (wordRst_packWord ..)
  | nop | deq | flush | enq b | enqdeq b | flushenq b => cases h; simp [decode]
  | rsvd operand => cases operand <;> cases h <;> simp [decode]
  | peekFirst | peekLast | occupancy | empty | full => cases h

/-- Settles O2: a well-formed instruction has a word, and `decode_of_encode` reads it back. -/
theorem decodeEncodeRoundTrip : Obligations.DecodeEncodeRoundTrip := by
  intro i hwf
  obtain ⟨w, hw⟩ := Option.isSome_iff_exists.1 ((encode_isSome i).trans hwf)
  exact ⟨w, hw, decode_of_encode hw⟩

/-! ### The rows of the opcode map -/

/-- Settles O1: the decoder evaluated on each word of the vectors L2-G. -/
theorem specWordsDecode : Obligations.SpecWordsDecode := by
  unfold Obligations.SpecWordsDecode
  decide

/-- No row of the map looks at `enq_data`. -/
theorem covers_clear_data {r : OpcodeRow} (hr : r ∈ opcodeRows) (w : CommandWord) :
    r.covers (w &&& 0xF00) = r.covers w := by
  have hmask : ∀ r ∈ opcodeRows, 0xF00 &&& r.mask = r.mask := by decide
  rw [OpcodeRow.covers, BitVec.and_assoc, hmask r hr, OpcodeRow.covers]

/-- Rules R75 and R81: `enq_data` has no part in which command a word is. -/
theorem decode_mnemonic_eq {w w' : CommandWord} (hrst : wordRst w = wordRst w') (hcmd : wordCmd w = wordCmd w')
    (hvalid : wordEnqValid w = wordEnqValid w') : (decode w).mnemonic = (decode w').mnemonic := by
  cases h : wordRst w' with
  | true => rw [decode_of_rst h, decode_of_rst (hrst.trans h)]
  | false =>
    cases hv : wordEnqValid w' with
    | false => rw [decode_eq_of_not_valid hrst hcmd (hvalid.trans hv) hv]
    | true =>
      rcases cmd_cases (wordCmd w') with hc | hc | hc | hc <;>
        simp [decode, Instr.mnemonic, hrst, hcmd, hvalid, h, hv, hc]

/-- Rule R81 for the words with `enq_data` = 0: one for each value of the other fields. -/
theorem covering_rows_packWord_zero (rst : Bool) (cmd : BitVec 2) (valid : Bool) :
    (opcodeRows.filter (·.covers (packWord rst cmd valid 0))).map OpcodeRow.mnemonic =
      [(decode (packWord rst cmd valid 0)).mnemonic] := by
  revert rst cmd valid
  decide

/-- Settles O3: neither the rows nor the name of the command depend on `enq_data`, so it may be cleared. -/
theorem everyWordMatchesExactlyOneRow : Obligations.EveryWordMatchesExactlyOneRow := by
  intro w
  have hrows : opcodeRows.filter (·.covers w) = opcodeRows.filter (·.covers (w &&& 0xF00)) :=
    List.filter_congr fun r hr => (covers_clear_data hr w).symm
  have hname : (decode w).mnemonic = (decode (w &&& 0xF00)).mnemonic := by
    rw [← packWord_clear_data]
    exact decode_mnemonic_eq (by simp) (by simp) (by simp)
  rw [hrows, hname, ← packWord_clear_data]
  exact covering_rows_packWord_zero _ _ _

end Sys2Proof.Machine
